-- ==== Sys2Proof/Word.lean ====
section
/-! DEFINITION. The word types of the model (00_scope.md R9, R10): everything here is unsigned. -/

namespace Sys2Proof

/-- One byte of memory (20_memory.md R58). -/
abbrev Byte := BitVec 8

/-- A 16-bit quantity: a cursor, a descriptor length, a VLAN tag, the PHY status word. -/
abbrev Half := BitVec 16

/-- A 32-bit quantity: a command word, a host register, a NIC register. -/
abbrev Word := BitVec 32

/-- A 64-bit address, of the engine's memory space or of the device address space (R58, R59). -/
abbrev Addr := BitVec 64

/-- A 48-bit MAC address in the representation of 30_encoding.md R108. -/
abbrev Mac := BitVec 48

/-- The 16 bytes of a descriptor as one little-endian number (20_memory.md R63, R66). -/
abbrev Desc := BitVec 128

end Sys2Proof
end

