-- ==== Sys2Proof/Syntax.lean ====
section
/-! DEFINITION. The commands of the command port: one constructor per row of spec/opcode_table.json
(30_encoding.md R96). Operands that travel in `ARG0`, `ARG1`, `ARG2` are not part of the command word. -/

namespace Sys2Proof

/-- A command, with the fields its command word carries (30_encoding.md R94, R96). -/
inductive Instr where
  /-- `INIT`, IMM = ring size N (40_ring.md R133) -/
  | init (n : Half)
  /-- `TX.SEND`, F0 = BLOCK, F1 = VLE (41_transmit.md R145) -/
  | txSend (block vle : Bool)
  /-- `TX.SENDF`, F0 = BLOCK, F1 = VLE, IMM = fragment count (R152) -/
  | txSendf (block vle : Bool) (frags : Half)
  /-- `TX.RECLAIM`, IMM = maxEntries (R157) -/
  | txReclaim (max : Half)
  /-- `RX.POLL` (42_receive.md R167) -/
  | rxPoll
  /-- `LINK.WAIT`, F0 = CD (43_link.md R185) -/
  | linkWait (cd : Bool)
  /-- `FILTER.SET`, F0 = MCL, IMM = filter mask (44_filter.md R198) -/
  | filterSet (mcl : Bool) (mask : Half)
  /-- `INT.MASK` (45_lifecycle.md R222) -/
  | intMask
  /-- `RX.ENABLE` (R214) -/
  | rxEnable
  /-- `RX.DISABLE` (R216) -/
  | rxDisable
  /-- `TXQ.ENABLE` (R218) -/
  | txqEnable
  /-- `TXQ.DISABLE` (R220) -/
  | txqDisable
  deriving DecidableEq, Repr

end Sys2Proof
end

