-- ==== Sys2Proof/WellFormed.lean ====
section
/-! DEFINITION. Which commands have a legal command word (30_encoding.md R98). -/

namespace Sys2Proof

/-- A command's fields meet the reserved-bit constraints of its opcode. The one field wider than what is
legal is FILTER.SET's immediate: `IMM[15:5]` must be 0 (30_encoding.md R98, R100). -/
def Instr.wf : Instr → Bool
  | .init _ => true
  | .txSend _ _ => true
  | .txSendf _ _ _ => true
  | .txReclaim _ => true
  | .rxPoll => true
  | .linkWait _ => true
  | .filterSet _ mask => decide (mask.toNat < 32)
  | .intMask => true
  | .rxEnable => true
  | .rxDisable => true
  | .txqEnable => true
  | .txqDisable => true

end Sys2Proof
end

