-- ==== Sys2Proof/Decode.lean ====
section
/-! DEFINITION. Decoding a command word (30_encoding.md R93 to R98) and the encoder, both written from the
opcode map R96 and the field constraints R98. -/

namespace Sys2Proof

/-- `W[7:0]`, the field OPC (R94). -/
def opcField (w : Word) : BitVec 8 := w.extractLsb' 0 8

/-- `W[8]`, the option flag F0 (R94). -/
def f0Field (w : Word) : Bool := w.getLsbD 8

/-- `W[9]`, the option flag F1 (R94). -/
def f1Field (w : Word) : Bool := w.getLsbD 9

/-- `W[31:16]`, the field IMM (R94). -/
def immField (w : Word) : Half := w.extractLsb' 16 16

/-- Why a word is no command; both reasons finish `Refused` (R95, R97, R98). -/
inductive DecodeError where
  /-- the opcode is no row of R96 (R97) -/
  | reservedOpcode
  /-- a bit of `mustZero(opc)` is 1 (R98) -/
  | reservedBits
  deriving DecidableEq, Repr

/-- What decoding answers: a command, or why there is none. -/
inductive Decoded where
  | command (i : Instr)
  | reject (why : DecodeError)
  deriving DecidableEq, Repr

/-- The command, where there is one. -/
def Decoded.toOption : Decoded → Option Instr
  | .command i => some i
  | .reject _ => none

/-- `i`, unless one of the bits of `mask`, which must be 0 for this opcode, is set (R98). -/
def reservedZero (w mask : Word) (i : Instr) : Decoded :=
  if w &&& mask = 0 then .command i else .reject .reservedBits

/-- Decode a command word: the opcode first, then its reserved bits (R95, R96, R98, R239). -/
def decode (w : Word) : Decoded :=
  if opcField w = 0x01#8 then reservedZero w 0x0000FF00#32 (.init (immField w))
  else if opcField w = 0x10#8 then reservedZero w 0xFFFFFC00#32 (.txSend (f0Field w) (f1Field w))
  else if opcField w = 0x11#8 then
    reservedZero w 0x0000FC00#32 (.txSendf (f0Field w) (f1Field w) (immField w))
  else if opcField w = 0x12#8 then reservedZero w 0x0000FF00#32 (.txReclaim (immField w))
  else if opcField w = 0x20#8 then reservedZero w 0xFFFFFF00#32 .rxPoll
  else if opcField w = 0x30#8 then reservedZero w 0xFFFFFE00#32 (.linkWait (f0Field w))
  else if opcField w = 0x40#8 then
    reservedZero w 0xFFE0FE00#32 (.filterSet (f0Field w) (immField w))
  else if opcField w = 0x41#8 then reservedZero w 0xFFFFFF00#32 .intMask
  else if opcField w = 0x50#8 then reservedZero w 0xFFFFFF00#32 .rxEnable
  else if opcField w = 0x51#8 then reservedZero w 0xFFFFFF00#32 .rxDisable
  else if opcField w = 0x52#8 then reservedZero w 0xFFFFFF00#32 .txqEnable
  else if opcField w = 0x53#8 then reservedZero w 0xFFFFFF00#32 .txqDisable
  else .reject .reservedOpcode

/-- The command word with the given fields and `RSV` = 0 (R94). -/
def cmdWord (opc : BitVec 8) (f0 f1 : Bool) (imm : Half) : Word :=
  imm ++ 0#6 ++ BitVec.ofBool f1 ++ BitVec.ofBool f0 ++ opc

/-- The command word of a command (R94, R96). -/
def encode : Instr → Word
  | .init n => cmdWord 0x01#8 false false n
  | .txSend block vle => cmdWord 0x10#8 block vle 0
  | .txSendf block vle frags => cmdWord 0x11#8 block vle frags
  | .txReclaim max => cmdWord 0x12#8 false false max
  | .rxPoll => cmdWord 0x20#8 false false 0
  | .linkWait cd => cmdWord 0x30#8 cd false 0
  | .filterSet mcl mask => cmdWord 0x40#8 mcl false mask
  | .intMask => cmdWord 0x41#8 false false 0
  | .rxEnable => cmdWord 0x50#8 false false 0
  | .rxDisable => cmdWord 0x51#8 false false 0
  | .txqEnable => cmdWord 0x52#8 false false 0
  | .txqDisable => cmdWord 0x53#8 false false 0

/-- Does the command need a successful INIT before it (`needsInit`, R98)? -/
def Instr.needsInit : Instr → Bool
  | .init _ => false
  | .txSend _ _ => true
  | .txSendf _ _ _ => true
  | .txReclaim _ => true
  | .rxPoll => true
  | .linkWait _ => false
  | .filterSet _ _ => true
  | .intMask => false
  | .rxEnable => true
  | .rxDisable => true
  | .txqEnable => true
  | .txqDisable => true

/-- The word a host of the opcode table gives: the low `nbits` bits of `w`, at most 32, the rest 0. -/
def tableWord (nbits w : Nat) : Word := BitVec.ofNat 32 (w % 2 ^ min nbits 32)

/-- The command the decoder reads from the opcode table's word `w` of `nbits` bits (bit 0 is the least
significant bit of the one 32-bit command word, as in R94). -/
def decodeTableWord (nbits w : Nat) : Option Instr := (decode (tableWord nbits w)).toOption

end Sys2Proof
end

