-- ==== Sys2Proof/Config.lean ====
section
/-! DEFINITION. The implementation parameters of 00_scope.md R7 as a configuration record, the two
reference configurations of R8, and the values the spec leaves open (opaque constants, no body). -/

namespace Sys2Proof

/-- `P_DESC_FORMAT` (R7; `CAPS[4:3]`, 10_state.md R35). -/
inductive DescFormat where
  | legacy
  | advanced
  deriving DecidableEq, Repr

/-- An answer of the mapper port to `Map(va, len)` (10_state.md R24). -/
inductive MapAnswer where
  | ok (da : Addr)
  | fail
  deriving DecidableEq, Repr, Inhabited

/-- The abstract transmit descriptor of every format (30_encoding.md R120): `cmd` and `sta` are their flags. -/
structure AdvTx where
  addr : Addr
  length : Half
  eop : Bool
  ifcs : Bool
  rs : Bool
  vle : Bool
  dd : Bool
  special : Half
  deriving DecidableEq, Repr, Inhabited

/-- The abstract receive descriptor of every format (30_encoding.md R120). -/
structure AdvRx where
  addr : Addr
  length : Half
  dd : Bool
  eop : Bool
  errors : Byte
  deriving DecidableEq, Repr, Inhabited

/-- One packing of a transmit record into 128 bits, and back: it shows that a layout exists, no more. -/
def AdvTx.toBits (r : AdvTx) : Desc :=
  0#27 ++ BitVec.ofBool r.dd ++ BitVec.ofBool r.vle ++ BitVec.ofBool r.rs ++ BitVec.ofBool r.ifcs ++ BitVec.ofBool r.eop ++
    r.special ++ r.length ++ r.addr

/-- The record of `AdvTx.toBits`. -/
def AdvTx.ofBits (d : Desc) : AdvTx where
  addr := d.extractLsb' 0 64
  length := d.extractLsb' 64 16
  eop := d.getLsbD 96
  ifcs := d.getLsbD 97
  rs := d.getLsbD 98
  vle := d.getLsbD 99
  dd := d.getLsbD 100
  special := d.extractLsb' 80 16

/-- One packing of a receive record into 128 bits, and back: it shows that a layout exists, no more. -/
def AdvRx.toBits (r : AdvRx) : Desc :=
  0#38 ++ BitVec.ofBool r.eop ++ BitVec.ofBool r.dd ++ r.errors ++ r.length ++ r.addr

/-- The record of `AdvRx.toBits`. -/
def AdvRx.ofBits (d : Desc) : AdvRx where
  addr := d.extractLsb' 0 64
  length := d.extractLsb' 64 16
  dd := d.getLsbD 88
  eop := d.getLsbD 89
  errors := d.extractLsb' 80 8

theorem AdvTx.ofBits_toBits (r : AdvTx) : AdvTx.ofBits r.toBits = r := by
  obtain ⟨a, l, e, i, r, v, d, p⟩ := r
  simp only [AdvTx.ofBits, AdvTx.toBits, AdvTx.mk.injEq]
  refine ⟨?_, ?_, ?_, ?_, ?_, ?_, ?_, ?_⟩
  all_goals first
    | (apply BitVec.eq_of_getLsbD_eq; intro i hi
       simp only [BitVec.getLsbD_extractLsb', BitVec.getLsbD_append, hi, decide_true, Bool.true_and]
       repeat (first | rw [if_pos (by omega)] | rw [if_neg (by omega)])
       congr 1; omega)
    | (simp only [BitVec.getLsbD_append, Nat.reduceLT, Nat.reduceSub, if_true, if_false, decide_true, BitVec.getLsbD_ofBool]
       simp)

theorem AdvRx.ofBits_toBits (r : AdvRx) : AdvRx.ofBits r.toBits = r := by
  obtain ⟨a, l, d, e, p⟩ := r
  simp only [AdvRx.ofBits, AdvRx.toBits, AdvRx.mk.injEq]
  refine ⟨?_, ?_, ?_, ?_, ?_⟩
  all_goals first
    | (apply BitVec.eq_of_getLsbD_eq; intro i hi
       simp only [BitVec.getLsbD_extractLsb', BitVec.getLsbD_append, hi, decide_true, Bool.true_and]
       repeat (first | rw [if_pos (by omega)] | rw [if_neg (by omega)])
       congr 1; omega)
    | (simp only [BitVec.getLsbD_append, Nat.reduceLT, Nat.reduceSub, if_true, if_false, decide_true, BitVec.getLsbD_ofBool]
       simp)

/-- A value of `P_ADV_LAYOUT` (30_encoding.md R121): for each ring the descriptor as the engine writes it, the descriptor as
the NIC writes it back, and the record that 16 bytes hold. The engine writes transmit descriptors with DD = 0 (41_transmit.md
R149, R160) and receive descriptors with every field but the address 0 (40_ring.md R135); the NIC writes back with DD = 1
(20_memory.md R80, R81). On these, reading returns what was written, but for the address field of a receive write-back, which
may hold any value (R81). The 16 zero bytes of INIT have DD = 0 (40_ring.md R142). The default values show that a layout
exists, no more. DEDUCED (notes/assumptions/12.md), safe. -/
structure AdvLayout where
  txEngine : AdvTx → Desc := AdvTx.toBits
  txNic : AdvTx → Desc := AdvTx.toBits
  txRead : Desc → AdvTx := AdvTx.ofBits
  rxEngine : AdvRx → Desc := AdvRx.toBits
  rxNic : AdvRx → Desc := AdvRx.toBits
  rxRead : Desc → AdvRx := AdvRx.ofBits
  txRead_engine : ∀ r, r.dd = false → txRead (txEngine r) = r := by exact fun r _ => AdvTx.ofBits_toBits r
  txRead_nic : ∀ r, r.dd = true → txRead (txNic r) = r := by exact fun r _ => AdvTx.ofBits_toBits r
  txRead_zero : (txRead 0).dd = false := by decide
  rxRead_engine : ∀ a, rxRead (rxEngine { addr := a, length := 0, dd := false, eop := false, errors := 0 }) =
    { addr := a, length := 0, dd := false, eop := false, errors := 0 } := by exact fun _ => AdvRx.ofBits_toBits _
  rxRead_nic : ∀ r, r.dd = true → rxRead (rxNic r) = { r with addr := (rxRead (rxNic r)).addr } := by
    exact fun r _ => by rw [AdvRx.ofBits_toBits]
  deriving Inhabited

/-- The implementation parameters (00_scope.md R7), the NIC register offsets `O_*` (10_state.md R50)
and the one-bit masks `B_*` of NIC register bits (R51). No step changes a configuration. -/
structure Config where
  /-- `P_N_MAX` -/
  nMax : Nat
  /-- `P_MAX_FRAGS` -/
  maxFrags : Nat
  /-- `P_MAX_MCAST` -/
  maxMcast : Nat
  /-- `P_RX_BUF_MAX` -/
  rxBufMax : Nat
  /-- `P_DESC_FORMAT` -/
  descFormat : DescFormat
  /-- `P_ADV_LAYOUT`, by its number in the family `Config.advLayouts`; without effect in the Legacy format -/
  advLayout : Nat
  /-- `P_QUEUE_HANDSHAKE` -/
  queueHandshake : Bool
  /-- `P_RX_TEST_EOP` -/
  rxTestEop : Bool
  /-- `P_ADAPTER_MAC` -/
  adapterMac : Mac
  /-- `P_TX_RING_BASE` -/
  txRingBase : Addr
  /-- `P_RX_RING_BASE` -/
  rxRingBase : Addr
  /-- `P_TX_POLL_COUNT` -/
  txPollCount : Nat
  /-- `P_TX_POLL_US` -/
  txPollUs : Nat
  /-- `P_LINK_POLL_COUNT` -/
  linkPollCount : Nat
  /-- `P_LINK_POLL_US` -/
  linkPollUs : Nat
  /-- `P_LINK_SETTLE_US` -/
  linkSettleUs : Nat
  /-- `P_PHY_DOWNSHIFT` -/
  phyDownshift : Bool
  /-- `P_PHY_PROBE_COUNT` -/
  phyProbeCount : Nat
  /-- `P_PHY_PROBE_US` -/
  phyProbeUs : Nat
  /-- `P_PHY_INDICATOR_MASK` -/
  phyMask : Half
  /-- `P_DOWNSHIFT_POLL_COUNT` -/
  downshiftPollCount : Nat
  /-- `P_DOWNSHIFT_POLL_US` -/
  downshiftPollUs : Nat
  /-- `P_QUEUE_POLL_COUNT` -/
  queuePollCount : Nat
  /-- `P_QUEUE_POLL_US` -/
  queuePollUs : Nat
  /-- `O_STATUS` -/
  oStatus : Nat
  /-- `O_RX_CTRL` -/
  oRxCtrl : Nat
  /-- `O_TX_CTRL` -/
  oTxCtrl : Nat
  /-- `O_IMS` -/
  oIms : Nat
  /-- `O_IMC` -/
  oImc : Nat
  /-- `O_RDBAL` -/
  oRdbal : Nat
  /-- `O_RDBAH` -/
  oRdbah : Nat
  /-- `O_RDLEN` -/
  oRdlen : Nat
  /-- `O_RDH` -/
  oRdh : Nat
  /-- `O_RDT` -/
  oRdt : Nat
  /-- `O_RXQ_CTL` -/
  oRxqCtl : Nat
  /-- `O_TDBAL` -/
  oTdbal : Nat
  /-- `O_TDBAH` -/
  oTdbah : Nat
  /-- `O_TDLEN` -/
  oTdlen : Nat
  /-- `O_TDH` -/
  oTdh : Nat
  /-- `O_TDT` -/
  oTdt : Nat
  /-- `O_TXQ_CTL` -/
  oTxqCtl : Nat
  /-- `B_LU`, link up, in `O_STATUS` -/
  bLu : Word
  /-- `B_RX_EN`, receiver enable, in `O_RX_CTRL` -/
  bRxEn : Word
  /-- `B_UPE`, unicast promiscuous, in `O_RX_CTRL` -/
  bUpe : Word
  /-- `B_MPE`, multicast promiscuous, in `O_RX_CTRL` -/
  bMpe : Word
  /-- `B_BAM`, broadcast accept, in `O_RX_CTRL` -/
  bBam : Word
  /-- `B_TX_EN`, transmit enable, in `O_TX_CTRL` -/
  bTxEn : Word
  /-- `B_QEN`, queue enable, in `O_RXQ_CTL` and `O_TXQ_CTL` -/
  bQen : Word
  deriving DecidableEq, Repr

/-- `REF-A` (00_scope.md R8): Family A with the reference values of R7, R50 and R51; the two values
R7 leaves to the tests (`P_ADAPTER_MAC`, `P_LINK_SETTLE_US`) are those the test vectors use: DESIGN CHOICE
(notes/assumptions/8.md), unsafe. -/
def Config.refA : Config where
  nMax := 256
  maxFrags := 8
  maxMcast := 8
  rxBufMax := 16384
  descFormat := .legacy
  advLayout := 0
  queueHandshake := false
  rxTestEop := true
  adapterMac := 0x020000000001#48
  txRingBase := 0x10000#64
  rxRingBase := 0x20000#64
  txPollCount := 10000
  txPollUs := 100
  linkPollCount := 500
  linkPollUs := 10000
  linkSettleUs := 0
  phyDownshift := true
  phyProbeCount := 3
  phyProbeUs := 1000000
  phyMask := 0xFFFF#16
  downshiftPollCount := 15
  downshiftPollUs := 1000000
  queuePollCount := 10
  queuePollUs := 1000
  oStatus := 0x0008
  oRxCtrl := 0x0100
  oTxCtrl := 0x0400
  oIms := 0x00D0
  oImc := 0x00D8
  oRdbal := 0x2800
  oRdbah := 0x2804
  oRdlen := 0x2808
  oRdh := 0x2810
  oRdt := 0x2818
  oRxqCtl := 0x2828
  oTdbal := 0x3800
  oTdbah := 0x3804
  oTdlen := 0x3808
  oTdh := 0x3810
  oTdt := 0x3818
  oTxqCtl := 0x3828
  bLu := 0x2#32
  bRxEn := 0x2#32
  bUpe := 0x8#32
  bMpe := 0x10#32
  bBam := 0x8000#32
  bTxEn := 0x2#32
  bQen := 0x2000000#32

/-- `REF-B` (00_scope.md R8): Family B. `P_RX_TEST_EOP` and `P_ADV_LAYOUT` are open there, so they are arguments. -/
def Config.refB (testEop : Bool) (layout : Nat) : Config :=
  { Config.refA with descFormat := .advanced, advLayout := layout, queueHandshake := true, rxTestEop := testEop }

/-- FREE VALUE. The answer the mapper gives to the `n`-th `Map` of a run when the state's script of
answers is exhausted: 10_state.md R24 leaves the mapper's answer to the platform. DESIGN CHOICE (notes/assumptions/10.md),
safe. -/
opaque Config.freeMapAnswer : Nat → MapAnswer

/-- FREE VALUE. The layout with number `n` of the Advanced format: any layout that 30_encoding.md R121 admits. DESIGN CHOICE
(notes/assumptions/12.md), safe. -/
opaque Config.advLayouts : Nat → AdvLayout

/-- `P_ADV_LAYOUT` (30_encoding.md R121). -/
def Config.layout (c : Config) : AdvLayout := Config.advLayouts c.advLayout

end Sys2Proof
end

