-- ==== Sys2Proof/Machine/State.lean ====
section
/-! DEFINITION. The state of the block and of what it acts on: the engine record `E` (10_state.md R37 to
R46), the host register file (R27 to R35), the NIC device (R49), the shared memory (20_memory.md R58) and the
mapper's live mappings (R59), with the sequencer's position in a command (R19), the inputs still to
come (R56) and the actions the engine has made. -/

namespace Sys2Proof.Machine

/-- The status codes (30_encoding.md R104); codes 8 to 15 are never written. -/
inductive Status where
  | success
  | busy
  | noData
  | deviceFailure
  | timeout
  | initFailure
  | refused
  | faulted
  deriving DecidableEq, Repr

/-- The link states (10_state.md R44, 30_encoding.md R107). -/
inductive LinkState where
  | linkDown
  | negotiating
  | linkUp
  | downshiftRetry
  | failed
  deriving DecidableEq, Repr

/-- The fault causes (60_exceptions.md R237). -/
inductive FaultCause where
  | none
  | headOutOfRange
  | headOutsideWindow
  deriving DecidableEq, Repr

/-- The frame types (30_encoding.md R105). -/
inductive FrameType where
  | unicast
  | broadcast
  | multicast
  | promiscuous
  deriving DecidableEq, Repr

/-- The two queues (45_lifecycle.md R211). -/
inductive Queue where
  | rx
  | tx
  deriving DecidableEq, Repr

/-- The NIC registers the engine uses, by name (10_state.md R50). -/
inductive NicReg where
  | status
  | rxCtrl
  | txCtrl
  | ims
  | imc
  | rdbal
  | rdbah
  | rdlen
  | rdh
  | rdt
  | rxqCtl
  | tdbal
  | tdbah
  | tdlen
  | tdh
  | tdt
  | txqCtl
  deriving DecidableEq, Repr

/-- A transmit descriptor record (10_state.md R47, 30_encoding.md R113, R120). -/
structure TxRec where
  addr : Addr
  length : Half
  cso : Byte
  cmd : Byte
  sta : Byte
  css : Byte
  special : Half
  deriving DecidableEq, Repr

/-- A receive descriptor record (10_state.md R47, 30_encoding.md R116, R120). -/
structure RxRec where
  addr : Addr
  length : Half
  csum : Half
  sta : Byte
  errors : Byte
  special : Half
  deriving DecidableEq, Repr

/-- One entry of the transmit binding table: `E.txBind[i]`, `E.txVa[i]`, `E.txLen[i]` (R40). -/
structure TxBinding where
  bind : Addr
  va : Addr
  len : Half
  deriving DecidableEq, Repr

/-- One entry of the receive binding table: `E.rxDa[i]`, `E.rxVa[i]` (R41). -/
structure RxBinding where
  da : Addr
  va : Addr
  deriving DecidableEq, Repr

/-- A fragment read from the list of TX.SENDF (30_encoding.md R110). -/
structure Frag where
  va : Addr
  len : Half
  deriving DecidableEq, Repr

/-- A fragment with its device address (41_transmit.md R147). -/
structure MappedFrag where
  va : Addr
  len : Half
  da : Addr
  deriving DecidableEq, Repr

/-- What RX.POLL reports of an accepted frame (42_receive.md R167). -/
structure RxReport where
  dst : Mac
  src : Mac
  etype : Half
  copied : Nat
  length : Half
  kind : FrameType
  deriving DecidableEq, Repr

/-- The positions of INIT (40_ring.md R133 to R137). -/
inductive InitPoint where
  /-- zero `TXD[i]` (R134) -/
  | txSlot (i : Nat)
  /-- map receive buffer `i` (R135) -/
  | mapBuf (i : Nat)
  /-- write `RXD[i]` (R135) -/
  | rxSlot (i : Nat)
  /-- undo the mapping of receive buffer `j` (R136) -/
  | undo (j : Nat)
  /-- the `k`-th register write of R137, from 0 -/
  | program (k : Nat)
  deriving DecidableEq, Repr

/-- The positions of TX.SEND and TX.SENDF (41_transmit.md R145, R151, R152). -/
inductive TxPoint where
  /-- map the frame of TX.SEND -/
  | sendMap
  /-- `Acquire()` of TX.SEND -/
  | sendAcquire (da : Addr)
  /-- write the descriptor of TX.SEND -/
  | sendWrite (da : Addr)
  /-- read list entry `acc.length`, `acc` being the entries read so far, `none` for an illegal one (R153) -/
  | fragRead (acc : List (Option Frag))
  /-- map `f`, then `todo`; `done` is mapped -/
  | fragMap (f : Frag) (todo : List Frag) (done : List MappedFrag)
  /-- `Acquire()` of TX.SENDF -/
  | fragAcquire (f : MappedFrag) (rest : List MappedFrag)
  /-- write the descriptor of `f`, then of `rest` (R154) -/
  | fragWrite (f : MappedFrag) (rest : List MappedFrag)
  /-- the tail write; `slot` is the slot of the frame's last descriptor -/
  | tail (slot : Half)
  /-- `Release()` -/
  | unlock (slot : Half)
  /-- the `k`-th done-bit read of `waitDone(slot)`, from 0 (R151) -/
  | waitRead (slot : Half) (k : Nat)
  /-- the delay after that read -/
  | waitDelay (slot : Half) (k : Nat)
  deriving DecidableEq, Repr

/-- The positions of TX.RECLAIM (41_transmit.md R157, R160); `h` is the head read, `k` the count so far. -/
inductive ReclaimPoint where
  | head
  | read (h : Word) (k : Nat)
  | unmap (h : Word) (k : Nat) (d : TxRec)
  | output (h : Word) (k : Nat) (d : TxRec)
  | clear (h : Word) (k : Nat) (d : TxRec)
  deriving DecidableEq, Repr

/-- The positions of RX.POLL (42_receive.md R167); a report of `none` is a dropped frame. -/
inductive RxPoint where
  | read
  | copy (len : Half) (n : Nat)
  | header (len : Half) (n : Nat)
  | rearm (report : Option RxReport)
  | tail (report : Option RxReport)
  deriving DecidableEq, Repr

/-- The positions of LINK.WAIT (43_link.md R185). -/
inductive LinkPoint where
  | read (k : Nat)
  | delay (k : Nat)
  | phyRead (k : Nat)
  | phyDelay (k : Nat)
  | retryDelay (k : Nat)
  | retryRead (k : Nat)
  | settle
  deriving DecidableEq, Repr

/-- The two locked changes of FILTER.SET (44_filter.md R201): step 1's `writeRxCtrl(m)`, step 2's
`McastProgram(list)`. -/
inductive Change where
  | ctrl
  | mcast
  deriving DecidableEq, Repr

/-- The positions of FILTER.SET outside the start and stop procedures (44_filter.md R198, R201);
`late` says that a queue handshake has timed out so far, `was` that receive was started. -/
inductive FilterPoint where
  | acquire (x : Change) (late : Bool)
  | ctrlRead (was late : Bool)
  | ctrlWrite (v : Word) (was late : Bool)
  | program (was late : Bool)
  | release (x : Change) (late : Bool)
  | listRead (acc : List Mac) (late : Bool)
  deriving DecidableEq, Repr

/-- The positions of INT.MASK (45_lifecycle.md R222). -/
inductive MaskPoint where
  | clear
  | set
  deriving DecidableEq, Repr

/-- Where a start or stop procedure returns to (45_lifecycle.md R213 to R220, 44_filter.md R198, R201). -/
inductive Return where
  /-- the queue commands: finish with the procedure's status -/
  | command
  /-- `rxStop` inside `lockedRxChange`: go on with the change -/
  | paused (x : Change) (late : Bool)
  /-- `rxStart` inside `lockedRxChange`: go on with the release -/
  | resumed (x : Change) (late : Bool)
  /-- step 3 of FILTER.SET: finish -/
  | final (late : Bool)
  deriving DecidableEq, Repr

/-- The positions of the start and stop procedures and their queue handshake (45_lifecycle.md R211,
R213, R215, R217, R219). -/
inductive QueuePoint where
  | onRead (q : Queue) (r : Return)
  | onWrite (q : Queue) (v : Word) (r : Return)
  | onPoll (q : Queue) (k : Nat) (r : Return)
  | onDelay (q : Queue) (k : Nat) (r : Return)
  | enableRead (q : Queue) (r : Return)
  | enableWrite (q : Queue) (v : Word) (r : Return)
  | disableRead (q : Queue) (r : Return)
  | disableWrite (q : Queue) (v : Word) (r : Return)
  | offRead (q : Queue) (r : Return)
  | offWrite (q : Queue) (v : Word) (r : Return)
  | offPoll (q : Queue) (k : Nat) (r : Return)
  | offDelay (q : Queue) (k : Nat) (r : Return)
  deriving DecidableEq, Repr

/-- `point`, the position in the running command's pseudocode (10_state.md R19): the next step of the
engine, with the local values the pseudocode holds there. -/
inductive Point where
  /-- the decode of 30_encoding.md R95 -/
  | decode
  | init (p : InitPoint)
  | tx (p : TxPoint)
  | reclaim (p : ReclaimPoint)
  | rx (p : RxPoint)
  | link (p : LinkPoint)
  | filter (p : FilterPoint)
  | mask (p : MaskPoint)
  | queue (p : QueuePoint)
  deriving DecidableEq, Repr

/-- The command latch (30_encoding.md R99): `CMD`, `ARG0`, `ARG1`, `ARG2` at command start. -/
structure Latch where
  word : Word
  arg0 : Addr
  arg1 : Word
  arg2 : Word
  deriving DecidableEq, Repr

/-- `E.seq` (10_state.md R19). `STATUS.BUSY` is 1 exactly while it is `running` (R30, R95). -/
inductive Seq where
  | idle
  | running (l : Latch) (p : Point)
  deriving DecidableEq, Repr

/-- The engine's internal state `E` (10_state.md R37 to R46). The binding tables and the multicast table
are lists of (index, entry) in canonical form: an index that is not listed holds an entry of zeros. DESIGN CHOICE
(notes/assumptions/22.md), safe. -/
structure Engine where
  /-- `E.seq` (R19) -/
  seq : Seq
  /-- `E.N` (R38) -/
  n : Half
  /-- `E.B` (R38) -/
  b : Word
  /-- `E.hwInit` (R38) -/
  hwInit : Bool
  /-- `E.txW` (R39) -/
  txW : Half
  /-- `E.txC` (R39) -/
  txC : Half
  /-- `E.txBind`, `E.txVa`, `E.txLen` (R40) -/
  txTab : List (Nat × TxBinding)
  /-- `E.rxC` (R41) -/
  rxC : Half
  /-- `E.rxDa`, `E.rxVa` (R41) -/
  rxTab : List (Nat × RxBinding)
  /-- `E.filterMask` (R42) -/
  filterMask : BitVec 5
  /-- `E.mcTable` (R42, R48) -/
  mcTable : List (Nat × Mac)
  /-- `E.mcCount` (R42) -/
  mcCount : Byte
  /-- `E.rxStarted` (R42) -/
  rxStarted : Bool
  /-- `E.txqEnabled` (R42) -/
  txqEnabled : Bool
  /-- `E.intMask` (R42) -/
  intMask : Word
  /-- `E.rxTrunc` (R43) -/
  rxTrunc : Word
  /-- `E.link` (R44) -/
  link : LinkState
  /-- `E.lockHeld` (R45) -/
  lockHeld : Bool
  /-- `E.fault` (R46) -/
  fault : Bool
  /-- `E.faultCause` (R46) -/
  faultCause : FaultCause
  /-- `E.ovr` (R46) -/
  ovr : Bool
  deriving DecidableEq, Repr

/-- The registers of the host register file that hold a value of their own (10_state.md R28, R30 to R32);
the others are mirrors of `E` or constants. `CMD` reads 0 and holds nothing (R29). -/
structure HostRegs where
  arg0 : Addr
  arg1 : Word
  arg2 : Word
  res0 : Addr
  res1 : Addr
  res2 : Word
  res3 : Word
  res4 : Word
  /-- `STATUS.CODE` -/
  code : Status
  deriving DecidableEq, Repr

/-- The NIC device's state `D` (10_state.md R49). `rxqCtl` and `txqCtl` are the words last written, whose
`B_QEN` bit is the requested enable; `rxqOn` and `txqOn` are the status enable bits (20_memory.md R83). -/
structure Nic where
  status : Word
  phy : Half
  rxCtrl : Word
  txCtrl : Word
  rxqCtl : Word
  txqCtl : Word
  rxqOn : Bool
  txqOn : Bool
  /-- `D.IMS`, the enabled-interrupt set -/
  ims : Word
  rdbal : Word
  rdbah : Word
  rdlen : Word
  rdh : Word
  rdt : Word
  tdbal : Word
  tdbah : Word
  tdlen : Word
  tdh : Word
  tdt : Word
  /-- the multicast list the NIC holds -/
  mcast : List Mac
  /-- the frame being assembled (20_memory.md R80); only a transmit step changes it, or a reset of the
  NIC: DESIGN CHOICE (notes/assumptions/31.md), unsafe -/
  assembling : List Byte
  deriving DecidableEq, Repr

/-- A live mapping: device address `da + k` names engine byte `va + k` for `k < len` (20_memory.md R59). -/
structure Mapping where
  da : Addr
  va : Addr
  len : Nat
  deriving DecidableEq, Repr

/-- The port actions of the engine (00_scope.md R12, 10_state.md R21 to R26), as an observer of the ports
sees them. -/
inductive PortAction where
  | regRead (off : Nat) (v : Word)
  | regWrite (off : Nat) (v : Word)
  | memRead (a : Addr) (n : Nat)
  | memWrite (a : Addr) (bytes : List Byte)
  | copy (dst src : Addr) (n : Nat)
  | map (va : Addr) (len : Nat) (answer : MapAnswer)
  | unmap (da : Addr) (len : Nat)
  | delay (us : Nat)
  | acquire
  | release
  | phyRead (v : Half)
  | mcast (list : List Mac)
  deriving DecidableEq, Repr

/-- A step of the NIC device agent with its free choices (20_memory.md R79 to R83). -/
inductive NicStep where
  /-- the transmit step (R80) -/
  | transmit
  /-- the receive step (R81): the bytes written to the buffer and the write-back's fields -/
  | receive (data : List Byte) (wb : RxRec)
  /-- the link step (R82): `B_LU` set or cleared -/
  | link (up : Bool)
  /-- the PHY step (R82) -/
  | phy (v : Half)
  /-- the queue handshake step (R83): the requested enable bit copied to the status bit -/
  | queue (q : Queue)
  /-- OUTSIDE THE CONTRACT (R85): the transmit head takes the value `v`. It is the one breach the block
  detects (93_implementation_defined.md U1, U10). DEDUCED (notes/assumptions/14.md), safe. -/
  | corruptHead (v : Word)
  deriving DecidableEq, Repr

/-- A step of the host agent (10_state.md R20, 70_reset_and_hazards.md R261). -/
inductive HostStep where
  /-- write a register of the block at byte offset `off` -/
  | write (off : Nat) (v : Word)
  /-- read the register of the block at byte offset `off` -/
  | read (off : Nat)
  /-- write bytes of host memory -/
  | store (a : Addr) (bytes : List Byte)
  /-- read host memory: nothing changes -/
  | load (a : Addr)
  /-- other software takes the lock -/
  | lock
  /-- other software releases the lock -/
  | unlock
  /-- the host stops the NIC (70_reset_and_hazards.md R261) -/
  | stopNic
  /-- the host resets the NIC (R258, R261): `d` is what the reset leaves in it, a free choice (notes/assumptions/41.md) -/
  | resetNic (d : Nic)
  deriving DecidableEq, Repr

/-- What comes to the machine from outside, in the order of the one interleaving (20_memory.md R76). DESIGN CHOICE
(notes/assumptions/2.md), safe. -/
inductive Input where
  /-- the engine takes its next step -/
  | engine
  /-- nothing else happens until the engine is idle or waits for the lock (the host's wait of
  30_encoding.md R126) -/
  | await
  | nic (n : NicStep)
  | host (h : HostStep)
  /-- the reset input (70_reset_and_hazards.md R256) -/
  | reset
  deriving DecidableEq, Repr

/-- The whole state. -/
structure State where
  /-- the parameters of this machine (00_scope.md R7); no step changes them -/
  cfg : Config
  /-- the engine record `E` -/
  eng : Engine
  /-- the host register file -/
  regs : HostRegs
  /-- the NIC device's state `D` -/
  nic : Nic
  /-- the engine's memory space (20_memory.md R58), in canonical form; an unlisted byte reads 0 -/
  mem : List (Nat × Byte)
  /-- the live mappings, newest first (R59); DESIGN CHOICE (notes/assumptions/11.md), unsafe -/
  maps : List Mapping
  /-- the mapper's next answers; when none is left the answers are `Config.freeMapAnswer` -/
  mapper : List MapAnswer
  /-- MODEL'S OWN: how many `Map` actions have been made, the index of the next free answer -/
  mapCount : Nat
  /-- other software holds the lock (20_memory.md R89) -/
  lockOther : Bool
  /-- the inputs still to come (10_state.md R56) -/
  inputs : List Input
  /-- the `TxFrame` events, newest first (20_memory.md R88) -/
  wire : List (List Byte)
  /-- MODEL'S OWN: the engine's port actions, newest first; DESIGN CHOICE (notes/assumptions/21.md), safe -/
  ports : List PortAction
  /-- MODEL'S OWN: the host's register reads (offset, value), newest first -/
  reads : List (Nat × Word)
  deriving DecidableEq, Repr

/-- The machine never stops with a fault: the block has no traps (60_exceptions.md R234), its sticky fault is
a state it goes on in (R236), every address of its 64-bit space exists (20_memory.md R58, R69), and what lies outside
the NIC's or the host's contract is no move of the model (R85, R92). No constructor: nobody raises one. -/
inductive Fault where
  deriving DecidableEq, Repr

/-- Why the machine gives no meaning. -/
inductive Refusal where
  /-- raised by no arm of `exec`: an instruction that has no meaning yet (safe) -/
  | notModelled (mnemonic : String)
  /-- raised by `step` and every meaning on a configuration that breaks a constraint of the spec:
  "a configuration that breaks this is ill-formed and a model refuses it" (20_memory.md R65, R66; U32). Safe. -/
  | illFormedConfig
  deriving DecidableEq, Repr

/-- The engine's reset values (10_state.md R54). -/
def Engine.reset : Engine where
  seq := .idle
  n := 0
  b := 0
  hwInit := false
  txW := 0
  txC := 0
  txTab := []
  rxC := 0
  rxTab := []
  filterMask := 0
  mcTable := []
  mcCount := 0
  rxStarted := false
  txqEnabled := false
  intMask := 0
  rxTrunc := 0
  link := .linkDown
  lockHeld := false
  fault := false
  faultCause := .none
  ovr := false

/-- The host register file's reset values (10_state.md R28, R30). -/
def HostRegs.reset : HostRegs where
  arg0 := 0
  arg1 := 0
  arg2 := 0
  res0 := 0
  res1 := 0
  res2 := 0
  res3 := 0
  res4 := 0
  code := .success

/-- DESIGN CHOICE (notes/assumptions/4.md), unsafe. The NIC's state when the model starts: the spec leaves
it to the NIC (10_state.md R54, U9), and the test vectors start it from zeros. -/
def Nic.start : Nic where
  status := 0
  phy := 0
  rxCtrl := 0
  txCtrl := 0
  rxqCtl := 0
  txqCtl := 0
  rxqOn := false
  txqOn := false
  ims := 0
  rdbal := 0
  rdbah := 0
  rdlen := 0
  rdh := 0
  rdt := 0
  tdbal := 0
  tdbah := 0
  tdlen := 0
  tdh := 0
  tdt := 0
  mcast := []
  assembling := []

/-- The machine right after reset with parameters `c` (70_reset_and_hazards.md R259), nothing listed in memory and no input to
come. Outside the block, where the spec gives no value: the lock is free, nothing is mapped, the mapper has no scripted answer,
and no frame is on the wire. DESIGN CHOICE (notes/assumptions/35.md), unsafe. -/
def State.resetWith (c : Config) : State where
  cfg := c
  eng := Engine.reset
  regs := HostRegs.reset
  nic := Nic.start
  mem := []
  maps := []
  mapper := []
  mapCount := 0
  lockOther := false
  inputs := []
  wire := []
  ports := []
  reads := []

/-- The machine right after reset, in the reference configuration REF-A (00_scope.md R8). -/
def State.reset : State := State.resetWith Config.refA

end Sys2Proof.Machine
end

