-- ==== Sys2Proof/Machine/Layout.lean ====
section
/-! DEFINITION. Byte order and the layout of descriptors (20_memory.md R63, R64; 30_encoding.md R108, R113 to R121). -/

namespace Sys2Proof.Machine

/-- The little-endian number of a byte string (20_memory.md R63). -/
def leNat : List Byte → Nat
  | [] => 0
  | b :: bs => b.toNat + 256 * leNat bs

/-- The `n` little-endian bytes of `v` (R63). -/
def leBytes : Nat → Nat → List Byte
  | 0, _ => []
  | n + 1, v => BitVec.ofNat 8 v :: leBytes n (v / 256)

/-- The number of a byte string in wire order, first byte highest, after `acc` (R64). -/
def beNat : Nat → List Byte → Nat
  | acc, [] => acc
  | acc, b :: bs => beNat (acc * 256 + b.toNat) bs

/-- A MAC address from its wire octets (30_encoding.md R108). -/
def macOfBytes (bs : List Byte) : Mac := BitVec.ofNat 48 (beNat 0 bs)

/-- `bs` cut or padded with zeros to `n` bytes (42_receive.md R171). -/
def padTo : Nat → List Byte → List Byte
  | 0, _ => []
  | n + 1, [] => 0 :: padTo n []
  | n + 1, b :: bs => b :: padTo n bs

/-- The Legacy transmit layout (30_encoding.md R113). -/
def packTx (r : TxRec) : Desc :=
  r.special ++ r.css ++ r.sta ++ r.cmd ++ r.cso ++ r.length ++ r.addr

/-- The record of a Legacy transmit descriptor (R113). -/
def unpackTx (d : Desc) : TxRec where
  addr := d.extractLsb' 0 64
  length := d.extractLsb' 64 16
  cso := d.extractLsb' 80 8
  cmd := d.extractLsb' 88 8
  sta := d.extractLsb' 96 8
  css := d.extractLsb' 104 8
  special := d.extractLsb' 112 16

/-- The Legacy receive layout (30_encoding.md R116). -/
def packRx (r : RxRec) : Desc :=
  r.special ++ r.errors ++ r.sta ++ r.csum ++ r.length ++ r.addr

/-- The record of a Legacy receive descriptor (R116). -/
def unpackRx (d : Desc) : RxRec where
  addr := d.extractLsb' 0 64
  length := d.extractLsb' 64 16
  csum := d.extractLsb' 80 16
  sta := d.extractLsb' 96 8
  errors := d.extractLsb' 104 8
  special := d.extractLsb' 112 16

/-- The transmit `cmd` bit EOP (30_encoding.md R114). -/
def cmdEop : Byte := 0x01

/-- The transmit `cmd` bit IFCS (R114). -/
def cmdIfcs : Byte := 0x02

/-- The transmit `cmd` bit RS (R114). -/
def cmdRs : Byte := 0x08

/-- The transmit `cmd` bit VLE (R114). -/
def cmdVle : Byte := 0x40

/-- The `sta` bit DD, descriptor done (R115, R117). -/
def staDd : Byte := 0x01

/-- The receive `sta` bit EOP (R117). -/
def staEop : Byte := 0x02

/-- The `b` of a flag that is set, else 0. -/
def flag (on : Bool) (b : Byte) : Byte := if on then b else 0

/-- A record of the Advanced format on the fields of the Legacy one: the fields and flags it has not are 0 (30_encoding.md
R120). -/
def txRecOf (r : AdvTx) : TxRec where
  addr := r.addr
  length := r.length
  cso := 0
  cmd := flag r.eop cmdEop ||| flag r.ifcs cmdIfcs ||| flag r.rs cmdRs ||| flag r.vle cmdVle
  sta := flag r.dd staDd
  css := 0
  special := r.special

/-- The abstract fields and flags of a transmit record (R120). -/
def TxRec.toAdv (r : TxRec) : AdvTx where
  addr := r.addr
  length := r.length
  eop := (r.cmd &&& cmdEop) != 0
  ifcs := (r.cmd &&& cmdIfcs) != 0
  rs := (r.cmd &&& cmdRs) != 0
  vle := (r.cmd &&& cmdVle) != 0
  dd := (r.sta &&& staDd) != 0
  special := r.special

/-- A record of the Advanced format on the fields of the Legacy one (R120). -/
def rxRecOf (r : AdvRx) : RxRec where
  addr := r.addr
  length := r.length
  csum := 0
  sta := flag r.dd staDd ||| flag r.eop staEop
  errors := r.errors
  special := 0

/-- The abstract fields and flags of a receive record (R120). -/
def RxRec.toAdv (r : RxRec) : AdvRx where
  addr := r.addr
  length := r.length
  dd := (r.sta &&& staDd) != 0
  eop := (r.sta &&& staEop) != 0
  errors := r.errors

/-- A transmit descriptor as the engine writes it, in the configuration's format (R113, R121). -/
def encodeTx (c : Config) (r : TxRec) : Desc :=
  match c.descFormat with
  | .legacy => packTx r
  | .advanced => c.layout.txEngine r.toAdv

/-- A transmit descriptor as the NIC writes it back (R121). -/
def encodeTxNic (c : Config) (r : TxRec) : Desc :=
  match c.descFormat with
  | .legacy => packTx r
  | .advanced => c.layout.txNic r.toAdv

/-- The transmit record of 16 descriptor bytes (R113, R121). -/
def decodeTx (c : Config) (d : Desc) : TxRec :=
  match c.descFormat with
  | .legacy => unpackTx d
  | .advanced => txRecOf (c.layout.txRead d)

/-- A receive descriptor as the engine writes it, in the configuration's format (R116, R121). -/
def encodeRx (c : Config) (r : RxRec) : Desc :=
  match c.descFormat with
  | .legacy => packRx r
  | .advanced => c.layout.rxEngine r.toAdv

/-- A receive descriptor as the NIC writes it back (R121). -/
def encodeRxNic (c : Config) (r : RxRec) : Desc :=
  match c.descFormat with
  | .legacy => packRx r
  | .advanced => c.layout.rxNic r.toAdv

/-- The receive record of 16 descriptor bytes (R116, R121). -/
def decodeRx (c : Config) (d : Desc) : RxRec :=
  match c.descFormat with
  | .legacy => unpackRx d
  | .advanced => rxRecOf (c.layout.rxRead d)

/-- `txDesc(da, len, c, tag)` (41_transmit.md R149). -/
def txDesc (da : Addr) (len : Half) (cmd : Byte) (tag : Half) : TxRec where
  addr := da
  length := len
  cso := 0
  cmd := cmd
  sta := 0
  css := 0
  special := tag

/-- The `cmd` value of a transmit descriptor: IFCS and RS always, EOP on the last descriptor of a frame, VLE on
every descriptor of a VLAN frame (R149). -/
def txCmd (last vle : Bool) : Byte :=
  cmdIfcs ||| cmdRs ||| (if last then cmdEop else 0) ||| (if vle then cmdVle else 0)

/-- `rxInit(da)` (40_ring.md R135, 30_encoding.md R119). -/
def rxInit (da : Addr) : RxRec where
  addr := da
  length := 0
  csum := 0
  sta := 0
  errors := 0
  special := 0

end Sys2Proof.Machine
end

