-- ==== Sys2Proof/Machine/Params.lean ====
section
/-! DEFINITION. What follows from the parameters: the register offsets by name, the ring regions and slots
(20_memory.md R66), and when a configuration is well formed (R65, R66; 93_implementation_defined.md U32). -/

namespace Sys2Proof.Machine

/-- The byte offset of a NIC register (10_state.md R50). Two may be equal: DESIGN CHOICE (notes/assumptions/29.md), unsafe. -/
def regOffset (c : Config) : NicReg → Nat
  | .status => c.oStatus
  | .rxCtrl => c.oRxCtrl
  | .txCtrl => c.oTxCtrl
  | .ims => c.oIms
  | .imc => c.oImc
  | .rdbal => c.oRdbal
  | .rdbah => c.oRdbah
  | .rdlen => c.oRdlen
  | .rdh => c.oRdh
  | .rdt => c.oRdt
  | .rxqCtl => c.oRxqCtl
  | .tdbal => c.oTdbal
  | .tdbah => c.oTdbah
  | .tdlen => c.oTdlen
  | .tdh => c.oTdh
  | .tdt => c.oTdt
  | .txqCtl => c.oTxqCtl

/-- All NIC registers of R50. -/
def allNicRegs : List NicReg :=
  [.status, .rxCtrl, .txCtrl, .ims, .imc, .rdbal, .rdbah, .rdlen, .rdh, .rdt, .rxqCtl, .tdbal, .tdbah,
    .tdlen, .tdh, .tdt, .txqCtl]

/-- A mask of exactly one bit (10_state.md R51: "each a one-bit mask"). -/
def oneBit (w : Word) : Bool := w != 0 && (w &&& (w - 1)) == 0

/-- The size in bytes of a ring region (20_memory.md R66). -/
def ringBytes (c : Config) : Nat := 16 * c.nMax

/-- Do the half-open ranges `[a, a + m)` and `[b, b + n)` have a byte in common? -/
def rangesMeet (a m b n : Nat) : Bool := decide (a < b + n) && decide (b < a + m) && decide (0 < m) && decide (0 < n)

/-- Does `[a, a + n)` overlap one of the two ring regions (R66)? -/
def overlapsRings (c : Config) (a n : Nat) : Bool :=
  rangesMeet a n c.txRingBase.toNat (ringBytes c) || rangesMeet a n c.rxRingBase.toNat (ringBytes c)

/-- Does `[a, a + n)` lie inside one of the two ring regions (R66)? -/
def insideRings (c : Config) (a n : Nat) : Bool :=
  (decide (c.txRingBase.toNat ≤ a) && decide (a + n ≤ c.txRingBase.toNat + ringBytes c)) ||
    (decide (c.rxRingBase.toNat ≤ a) && decide (a + n ≤ c.rxRingBase.toNat + ringBytes c))

/-- The constraints the spec puts on a configuration: ring bases 128-byte aligned, register offsets multiples
of 4 (20_memory.md R65), the ring regions below 2^64 and apart (R66), ring sizes in 16 bits (92 D71), the
counts of `CAPS` in 8 bits (10_state.md R35, R42), each bit mask one bit (R51). DEDUCED (notes/assumptions/9.md), safe.
Two masks may be the same bit: DESIGN CHOICE (notes/assumptions/39.md), unsafe. -/
def configWf (c : Config) : Bool :=
  c.txRingBase.toNat % 128 == 0 && c.rxRingBase.toNat % 128 == 0 &&
    decide (c.txRingBase.toNat + ringBytes c ≤ 2 ^ 64) &&
    decide (c.rxRingBase.toNat + ringBytes c ≤ 2 ^ 64) &&
    !rangesMeet c.txRingBase.toNat (ringBytes c) c.rxRingBase.toNat (ringBytes c) &&
    allNicRegs.all (fun r => regOffset c r % 4 == 0) &&
    decide (c.nMax ≤ 65535) && decide (c.maxFrags ≤ 255) && decide (c.maxMcast ≤ 255) &&
    [c.bLu, c.bRxEn, c.bUpe, c.bMpe, c.bBam, c.bTxEn, c.bQen].all oneBit

/-- The address of `TXD[i]` (20_memory.md R66). -/
def txSlotAddr (c : Config) (i : Nat) : Addr := c.txRingBase + BitVec.ofNat 64 (16 * i)

/-- The address of `RXD[i]` (20_memory.md R66). -/
def rxSlotAddr (c : Config) (i : Nat) : Addr := c.rxRingBase + BitVec.ofNat 64 (16 * i)

end Sys2Proof.Machine
end

