-- ==== Sys2Proof/Machine/Ops.lean ====
section
/-! DEFINITION. The named operations: canonical tables, memory, the port primitives of 00_scope.md R12, the end of a
command (R13), the sticky fault (60_exceptions.md R236) and the reset input (70_reset_and_hazards.md R256). -/

namespace Sys2Proof.Machine

/-! ### Canonical tables: strictly rising indexes, no entry equal to the default -/

/-- The entry at index `i`; an index that is not listed holds `d`. -/
def tableGet {α : Type} (d : α) : List (Nat × α) → Nat → α
  | [], _ => d
  | (k, v) :: t, i => if k = i then v else tableGet d t i

/-- Write entry `i`, keeping the canonical form. -/
def tableSet {α : Type} [DecidableEq α] (d : α) : List (Nat × α) → Nat → α → List (Nat × α)
  | [], i, v => if v = d then [] else [(i, v)]
  | (k, w) :: t, i, v =>
    if i < k then (if v = d then (k, w) :: t else (i, v) :: (k, w) :: t)
    else if i = k then (if v = d then t else (i, v) :: t)
    else (k, w) :: tableSet d t i v

/-- The canonical form: indexes from `lo` on, strictly rising, no entry equal to `d`. -/
def tableWfFrom {α : Type} [DecidableEq α] (d : α) : Nat → List (Nat × α) → Bool
  | _, [] => true
  | lo, (k, v) :: t => decide (lo ≤ k) && decide (v ≠ d) && tableWfFrom d (k + 1) t

/-- The canonical form of a table. -/
def tableWf {α : Type} [DecidableEq α] (d : α) (t : List (Nat × α)) : Bool := tableWfFrom d 0 t

/-- The empty transmit binding (10_state.md R40). -/
def noTx : TxBinding := ⟨0, 0, 0⟩

/-- The empty receive binding (10_state.md R41). -/
def noRx : RxBinding := ⟨0, 0⟩

/-! ### Memory (20_memory.md R58, R63) -/

/-- What an unlisted byte of memory reads as (DESIGN CHOICE, notes/assumptions/3.md, unsafe). -/
def unlistedByte : Byte := 0

/-- The canonical form of memory. -/
def memWf (m : List (Nat × Byte)) : Bool := tableWf unlistedByte m

/-- Read one byte. -/
def readByte (m : List (Nat × Byte)) (a : Addr) : Byte := tableGet unlistedByte m a.toNat

/-- Write one byte. -/
def writeByte (m : List (Nat × Byte)) (a : Addr) (v : Byte) : List (Nat × Byte) :=
  tableSet unlistedByte m a.toNat v

/-- Read `n` bytes from `a` upward. -/
def readBytes (m : List (Nat × Byte)) (a : Addr) : Nat → List Byte
  | 0 => []
  | n + 1 => readByte m a :: readBytes m (a + 1) n

/-- Write bytes from `a` upward. -/
def writeBytes (m : List (Nat × Byte)) (a : Addr) : List Byte → List (Nat × Byte)
  | [] => m
  | b :: bs => writeBytes (writeByte m a b) (a + 1) bs

/-- Byte `b` is one of the `n` bytes from `a` on (modulo 2^64). -/
abbrev inRange (b a : Addr) (n : Nat) : Prop := (b - a).toNat < n

/-- Read the 16 bytes of a descriptor. -/
def readDesc (m : List (Nat × Byte)) (a : Addr) : Desc := BitVec.ofNat 128 (leNat (readBytes m a 16))

/-- The 16 bytes of a descriptor. -/
def descBytes (d : Desc) : List Byte := leBytes 16 d.toNat

/-! ### Named updates of the state -/

/-- Record a port action. -/
def State.note (s : State) (a : PortAction) : State := { s with ports := a :: s.ports }

/-- Replace the engine record. -/
def State.setEng (s : State) (e : Engine) : State := { s with eng := e }

/-- Replace the host registers. -/
def State.setRegs (s : State) (r : HostRegs) : State := { s with regs := r }

/-- Replace the NIC's state. -/
def State.setNic (s : State) (d : Nic) : State := { s with nic := d }

/-- Replace memory. -/
def State.setMem (s : State) (m : List (Nat × Byte)) : State := { s with mem := m }

/-- Replace the inputs still to come. -/
def State.setInputs (s : State) (is : List Input) : State := { s with inputs := is }

/-- Put the sequencer at `q`. -/
def State.setSeq (s : State) (q : Seq) : State := s.setEng { s.eng with seq := q }

/-- The engine's next step is at `p` (10_state.md R19). -/
def State.goto (s : State) (l : Latch) (p : Point) : State := s.setSeq (.running l p)

/-! ### The end of a command (00_scope.md R13) -/

/-- `finish(code)`: `STATUS.CODE <- code`, `STATUS.BUSY <- 0`, the engine is idle. -/
def State.finish (s : State) (c : Status) : State :=
  (s.setRegs { s.regs with code := c }).setSeq .idle

/-- `refuse` (60_exceptions.md R232). -/
def State.refuse (s : State) : State := s.finish .refused

/-- `raise Fault(cause)`: the sticky fault, then `finish(Faulted)` (60_exceptions.md R236). This is the block's one
exception; the return from it is `State.blockReset` (R238, R253). -/
def State.raiseFault (s : State) (c : FaultCause) : State :=
  (s.setEng { s.eng with fault := true, faultCause := c }).finish .faulted

/-- The reset input (70_reset_and_hazards.md R256, R257): the engine record and the host registers take their reset
values, and with them the lock is released; the NIC, memory, the mappings and everything else stay. -/
def State.blockReset (s : State) : State := (s.setEng Engine.reset).setRegs HostRegs.reset

/-! ### The NIC register port (10_state.md R22) -/

/-- A queue-control word as it reads: the status enable bit in place of `B_QEN` (20_memory.md R83). DEDUCED
(notes/assumptions/18.md), safe. -/
def queueWord (c : Config) (w : Word) (on : Bool) : Word :=
  (w &&& ~~~c.bQen) ||| (if on then c.bQen else 0)

/-- What a read of a NIC register returns: the current value (20_memory.md R68, R83, R84). For `O_IMC`, which the engine never
reads: DESIGN CHOICE (notes/assumptions/17.md), safe. -/
def nicRead (c : Config) (d : Nic) : NicReg → Word
  | .status => d.status
  | .rxCtrl => d.rxCtrl
  | .txCtrl => d.txCtrl
  | .ims => d.ims
  | .imc => d.ims
  | .rdbal => d.rdbal
  | .rdbah => d.rdbah
  | .rdlen => d.rdlen
  | .rdh => d.rdh
  | .rdt => d.rdt
  | .rxqCtl => queueWord c d.rxqCtl d.rxqOn
  | .tdbal => d.tdbal
  | .tdbah => d.tdbah
  | .tdlen => d.tdlen
  | .tdh => d.tdh
  | .tdt => d.tdt
  | .txqCtl => queueWord c d.txqCtl d.txqOn

/-- The effect of a write to a NIC register (20_memory.md R84). The engine never writes `O_STATUS` (10_state.md R50,
R196), and a write of it changes nothing: DESIGN CHOICE (notes/assumptions/17.md), safe. Registers are kept by name, so two
with the same offset parameter stay two: DESIGN CHOICE (notes/assumptions/29.md), unsafe. INIT's ring registers leave the frame
the NIC is assembling: DESIGN CHOICE (notes/assumptions/31.md), unsafe. -/
def nicWrite (d : Nic) (r : NicReg) (v : Word) : Nic :=
  match r with
  | .status => d
  | .rxCtrl => { d with rxCtrl := v }
  | .txCtrl => { d with txCtrl := v }
  | .ims => { d with ims := d.ims ||| v }
  | .imc => { d with ims := d.ims &&& ~~~v }
  | .rdbal => { d with rdbal := v }
  | .rdbah => { d with rdbah := v }
  | .rdlen => { d with rdlen := v }
  | .rdh => { d with rdh := v }
  | .rdt => { d with rdt := v }
  | .rxqCtl => { d with rxqCtl := v }
  | .tdbal => { d with tdbal := v }
  | .tdbah => { d with tdbah := v }
  | .tdlen => { d with tdlen := v }
  | .tdh => { d with tdh := v }
  | .tdt => { d with tdt := v }
  | .txqCtl => { d with txqCtl := v }

/-- The value `Reg32Read` returns. -/
def State.regVal (s : State) (r : NicReg) : Word := nicRead s.cfg s.nic r

/-- `Reg32Read` made: a read changes nothing but the record of port actions (20_memory.md R68). -/
def State.regRead (s : State) (r : NicReg) : State := s.note (.regRead (regOffset s.cfg r) (s.regVal r))

/-- `Reg32Write`. -/
def State.regWrite (s : State) (r : NicReg) (v : Word) : State :=
  (s.setNic (nicWrite s.nic r v)).note (.regWrite (regOffset s.cfg r) v)

/-! ### The memory port (10_state.md R23) -/

/-- `MemRead` made: nothing changes but the record of port actions. -/
def State.memRead (s : State) (a : Addr) (n : Nat) : State := s.note (.memRead a n)

/-- `MemWrite`. -/
def State.memWrite (s : State) (a : Addr) (bytes : List Byte) : State :=
  (s.setMem (writeBytes s.mem a bytes)).note (.memWrite a bytes)

/-- `Copy`. -/
def State.copyBytes (s : State) (dst src : Addr) (n : Nat) : State :=
  (s.setMem (writeBytes s.mem dst (readBytes s.mem src n))).note (.copy dst src n)

/-- The record at `TXD[i]`. -/
def State.txRecAt (s : State) (i : Nat) : TxRec := decodeTx s.cfg (readDesc s.mem (txSlotAddr s.cfg i))

/-- The record at `RXD[i]`. -/
def State.rxRecAt (s : State) (i : Nat) : RxRec := decodeRx s.cfg (readDesc s.mem (rxSlotAddr s.cfg i))

/-- Write `TXD[i]` whole. -/
def State.writeTxd (s : State) (i : Nat) (r : TxRec) : State :=
  s.memWrite (txSlotAddr s.cfg i) (descBytes (encodeTx s.cfg r))

/-- Write `RXD[i]` whole. -/
def State.writeRxd (s : State) (i : Nat) (r : RxRec) : State :=
  s.memWrite (rxSlotAddr s.cfg i) (descBytes (encodeRx s.cfg r))

/-- The address and bytes of the write `TXD[i].sta <- sta`, `d` being the record read: the one status byte in the
Legacy layout, the whole descriptor encoded again in the Advanced format (41_transmit.md R160). -/
def staWrite (c : Config) (i : Nat) (d : TxRec) (sta : Byte) : Addr × List Byte :=
  match c.descFormat with
  | .legacy => (txSlotAddr c i + 12, [sta])
  | .advanced => (txSlotAddr c i, descBytes (encodeTx c { d with sta := sta }))

/-! ### The mapper port (10_state.md R24, 20_memory.md R59, R70, R71) -/

/-- The mapper's next answer. -/
def State.mapAnswer (s : State) : MapAnswer :=
  match s.mapper with
  | [] => Config.freeMapAnswer s.mapCount
  | a :: _ => a

/-- `Map(va, len)` made: the answer is used up. -/
def State.mapCall (s : State) (va : Addr) (len : Nat) : State :=
  ({ s with mapper := s.mapper.tail, mapCount := s.mapCount + 1 } : State).note (.map va len s.mapAnswer)

/-- `dev(va, r)` (20_memory.md R70). -/
def dev (va : Addr) : MapAnswer → Addr
  | .ok d => if d = 0 then va else d
  | .fail => va

/-- The mapping of `len` bytes at `va` under device address `da` is live from now on (R59). -/
def State.addMapping (s : State) (da va : Addr) (len : Nat) : State :=
  { s with maps := { da := da, va := va, len := len } :: s.maps }

/-- `Map` of a transmit buffer: no answer is an error, and the mapping under `dev(va, r)` is live (41_transmit.md R147). -/
def State.mapTx (s : State) (va : Addr) (len : Nat) : State :=
  (s.mapCall va len).addMapping (dev va s.mapAnswer) va len

/-- Remove the newest mapping at `da` of length `len`. -/
def dropMapping (da : Addr) (len : Nat) : List Mapping → List Mapping
  | [] => []
  | m :: ms => if m.da = da ∧ m.len = len then ms else m :: dropMapping da len ms

/-- `Unmap(da, len)`. -/
def State.unmap (s : State) (da : Addr) (len : Nat) : State :=
  ({ s with maps := dropMapping da len s.maps } : State).note (.unmap da len)

/-! ### The delay, lock, PHY and multicast ports (10_state.md R25, R26) -/

/-- `DelayUs(n)`: one action of no duration (70_reset_and_hazards.md R275). -/
def State.delay (s : State) (us : Nat) : State := s.note (.delay us)

/-- `Acquire()` granted (20_memory.md R89). -/
def State.acquire (s : State) : State := (s.setEng { s.eng with lockHeld := true }).note .acquire

/-- `Release()` (20_memory.md R89). -/
def State.release (s : State) : State := (s.setEng { s.eng with lockHeld := false }).note .release

/-- `PhyRead()` made. -/
def State.phyRead (s : State) : State := s.note (.phyRead s.nic.phy)

/-- `McastProgram(list)`: the NIC holds `list` from now on. -/
def State.mcastProgram (s : State) (list : List Mac) : State :=
  (s.setNic { s.nic with mcast := list }).note (.mcast list)

/-! ### Binding tables and cursors -/

/-- The entry of the transmit binding table at slot `i`. -/
def State.txBinding (s : State) (i : Nat) : TxBinding := tableGet noTx s.eng.txTab i

/-- The entry of the receive binding table at slot `i`. -/
def State.rxBinding (s : State) (i : Nat) : RxBinding := tableGet noRx s.eng.rxTab i

/-- Write the entry of the transmit binding table at slot `i`. -/
def State.setTxBinding (s : State) (i : Nat) (b : TxBinding) : State :=
  s.setEng { s.eng with txTab := tableSet noTx s.eng.txTab i b }

/-- Write the entry of the receive binding table at slot `i`. -/
def State.setRxBinding (s : State) (i : Nat) (b : RxBinding) : State :=
  s.setEng { s.eng with rxTab := tableSet noRx s.eng.rxTab i b }

/-- `adv(i, n)` (40_ring.md R130). -/
def adv (i n : Half) : Half := BitVec.ofNat 16 ((i.toNat + 1) % n.toNat)

/-- Slot `(i + j) mod n` of a ring of `n` slots. -/
def slotFrom (i n : Half) (j : Nat) : Nat := (i.toNat + j) % n.toNat

end Sys2Proof.Machine
end

