-- ==== Sys2Proof/Machine/Operands.lean ====
section
/-! DEFINITION. The operands of a command: fields of the latched word and operand registers, and the checks of
30_encoding.md R100. -/

namespace Sys2Proof.Machine

/-- `CMD[8]` (30_encoding.md R94). -/
def Latch.f0 (l : Latch) : Bool := f0Field l.word

/-- `CMD[9]` (R94). -/
def Latch.f1 (l : Latch) : Bool := f1Field l.word

/-- `IMM`, zero-extended (R102). -/
def Latch.imm (l : Latch) : Nat := (immField l.word).toNat

/-- `ARG1[15:0]`. -/
def Latch.arg1Lo (l : Latch) : Half := l.arg1.extractLsb' 0 16

/-- `ARG1[31:16]`. -/
def Latch.arg1Hi (l : Latch) : Half := l.arg1.extractLsb' 16 16

/-- `ARG2[15:0]`. -/
def Latch.arg2Lo (l : Latch) : Half := l.arg2.extractLsb' 0 16

/-- `ARG2[31:16]`. -/
def Latch.arg2Hi (l : Latch) : Half := l.arg2.extractLsb' 16 16

/-- `IMM[4:0]` = `CMD[20:16]`, the filter mask of FILTER.SET (R102). -/
def Latch.mask (l : Latch) : BitVec 5 := l.word.extractLsb' 16 5

/-- The VLAN tag: `ARG2[15:0]` when F1 = 1, else 0 (41_transmit.md R145). -/
def Latch.tag (l : Latch) : Half := if l.f1 then l.arg2Lo else 0

/-- `range(a, n)` is not below 2^64: `a + n > 2^64` (30_encoding.md R100, 20_memory.md R62). -/
def wraps (a : Addr) (n : Nat) : Bool := decide (2 ^ 64 < a.toNat + n)

/-- The number of addresses FILTER.SET takes (44_filter.md R203). -/
def mcastCount (c : Config) (l : Latch) : Nat := min l.arg1.toNat c.maxMcast

/-- The fragment of a list entry, or none when the entry is refused (41_transmit.md R153, 30_encoding.md R110). -/
def fragOf (e : Desc) : Option Frag :=
  let va : Addr := e.extractLsb' 0 64
  let len : Word := e.extractLsb' 64 32
  if va = 0 ∨ len = 0 ∨ 0xFFFF < len.toNat ∨ wraps va len.toNat = true then none
  else some { va := va, len := len.setWidth 16 }

/-- The address of entry `k` of an array of `size`-byte entries at `a` (30_encoding.md R110, R111, R112). -/
def entryAddr (a : Addr) (size k : Nat) : Addr := a + BitVec.ofNat 64 (size * k)

/-- The first `k` entries of the tracked multicast table (10_state.md R42). -/
def mcastList (t : List (Nat × Mac)) (k : Nat) : List Mac := (List.range k).map (tableGet 0 t)

/-- Write `list` into the multicast table from entry `k` on. -/
def setMcast (t : List (Nat × Mac)) (k : Nat) : List Mac → List (Nat × Mac)
  | [] => t
  | m :: ms => setMcast (tableSet 0 t k m) (k + 1) ms

/-- The memory ranges (address, length) that the caller structures of a running command occupy (20_memory.md R92). -/
def callerRanges (c : Config) (m : List (Nat × Byte)) (l : Latch) : List (Nat × Nat) :=
  match decode l.word with
  | .reject _ => []
  | .command i =>
    match i with
    | .init n => [(l.arg0.toNat, n.toNat * l.arg1.toNat)]
    | .txSend _ _ => [(l.arg0.toNat, l.arg1Lo.toNat)]
    | .txSendf _ _ f =>
      (l.arg0.toNat, 16 * f.toNat) ::
        (List.range (min f.toNat c.maxFrags)).map (fun j =>
          let e := readDesc m (entryAddr l.arg0 16 j)
          ((e.extractLsb' 0 64).toNat, (e.extractLsb' 64 32).toNat))
    | .txReclaim max => [(l.arg0.toNat, 8 * max.toNat)]
    | .rxPoll => [(l.arg0.toNat, l.arg1.toNat)]
    | .linkWait _ => []
    | .filterSet mcl _ => if mcl then [(l.arg0.toNat, 6 * mcastCount c l)] else []
    | .intMask => []
    | .rxEnable => []
    | .rxDisable => []
    | .txqEnable => []
    | .txqDisable => []

end Sys2Proof.Machine
end

