-- ==== Sys2Proof/Machine/Flags.lean ====
section
/-! DEFINITION. The codes and words the host sees (10_state.md R28 to R35; 30_encoding.md R104 to R109; 60_exceptions.md
R237) and the tests the commands make: done bits, the head window, the link bit, the frame class. -/

namespace Sys2Proof.Machine

/-- The status code numbers (30_encoding.md R104). -/
def Status.bits : Status → BitVec 4
  | .success => 0
  | .busy => 1
  | .noData => 2
  | .deviceFailure => 3
  | .timeout => 4
  | .initFailure => 5
  | .refused => 6
  | .faulted => 7

/-- The link state codes (30_encoding.md R107). -/
def LinkState.bits : LinkState → BitVec 3
  | .linkDown => 0
  | .negotiating => 1
  | .linkUp => 2
  | .downshiftRetry => 3
  | .failed => 4

/-- The fault cause codes (60_exceptions.md R237). -/
def FaultCause.bits : FaultCause → BitVec 4
  | .none => 0
  | .headOutOfRange => 1
  | .headOutsideWindow => 2

/-- The frame type codes (30_encoding.md R105). -/
def FrameType.bits : FrameType → BitVec 3
  | .unicast => 1
  | .broadcast => 2
  | .multicast => 3
  | .promiscuous => 4

/-- The code of `CAPS[4:3]` (10_state.md R35). -/
def formatBits : DescFormat → BitVec 2
  | .legacy => 0
  | .advanced => 1

/-- Is a command running (`STATUS.BUSY`, R30)? -/
def Seq.busy : Seq → Bool
  | .idle => false
  | .running _ _ => true

/-- `Timeout` when some queue handshake timed out, else `Success` (44_filter.md R198, `⊔`). -/
def lateStatus (late : Bool) : Status := if late then .timeout else .success

/-- The `STATUS` word (10_state.md R30). -/
def State.statusWord (s : State) : Word :=
  0#12 ++ s.eng.faultCause.bits ++ 0#2 ++ BitVec.ofBool s.eng.txqEnabled ++ BitVec.ofBool s.eng.rxStarted ++
    BitVec.ofBool s.eng.hwInit ++ s.eng.link.bits ++ 0#1 ++ BitVec.ofBool s.eng.ovr ++
    BitVec.ofBool s.eng.fault ++ BitVec.ofBool s.eng.seq.busy ++ s.regs.code.bits

/-- The `CAPS` word (10_state.md R35). -/
def capsWord (c : Config) : Word :=
  0#8 ++ BitVec.ofNat 8 c.maxMcast ++ BitVec.ofNat 8 c.maxFrags ++ 0#3 ++ formatBits c.descFormat ++
    BitVec.ofBool c.phyDownshift ++ BitVec.ofBool c.rxTestEop ++ BitVec.ofBool c.queueHandshake

/-- The `FILTER` word (10_state.md R28, R34). -/
def State.filterWord (s : State) : Word := 0#16 ++ s.eng.mcCount ++ 0#3 ++ s.eng.filterMask

/-- What a host read of the register at byte offset `off` returns (10_state.md R28 to R35). -/
def State.hostRead (s : State) (off : Nat) : Word :=
  match off with
  | 0x00 => 0
  | 0x04 => s.statusWord
  | 0x08 => s.regs.arg0.extractLsb' 0 32
  | 0x0C => s.regs.arg0.extractLsb' 32 32
  | 0x10 => s.regs.arg1
  | 0x14 => s.regs.arg2
  | 0x18 => s.regs.res0.extractLsb' 0 32
  | 0x1C => s.regs.res0.extractLsb' 32 32
  | 0x20 => s.regs.res1.extractLsb' 0 32
  | 0x24 => s.regs.res1.extractLsb' 32 32
  | 0x28 => s.regs.res2
  | 0x2C => s.regs.res3
  | 0x30 => s.regs.res4
  | 0x34 => s.eng.txC ++ s.eng.txW
  | 0x38 => 0#16 ++ s.eng.rxC
  | 0x3C => s.filterWord
  | 0x40 => s.eng.intMask
  | 0x44 => s.eng.rxTrunc
  | 0x48 => 0#16 ++ s.eng.n
  | 0x4C => s.eng.b
  | 0x50 => capsWord s.cfg
  | 0x54 => s.cfg.adapterMac.extractLsb' 0 32
  | 0x58 => 0#16 ++ s.cfg.adapterMac.extractLsb' 32 16
  | _ => 0

/-- `txDone(d)` (40_ring.md R131). -/
def txDone (d : TxRec) : Bool := (d.sta &&& staDd) != 0

/-- `rxDone(d)` (40_ring.md R132). -/
def rxDone (c : Config) (d : RxRec) : Bool :=
  (d.sta &&& staDd) != 0 || (c.rxTestEop && (d.sta &&& staEop) != 0)

/-- `free(i)` (40_ring.md R129). -/
def State.slotFree (s : State) (i : Nat) : Bool := decide ((s.txBinding i).bind = 0)

/-- `inWin(i, h, t)`: slot `i` lies in the circular interval from `h` up to but not including `t`, on a ring of `n`
slots (20_memory.md R72). -/
def inWin (n i h t : Nat) : Bool := decide ((i + n - h) % n < (t + n - h) % n)

/-- `h` is one of the slots `c`, `adv(c)`, ..., `w` (41_transmit.md R158). -/
def inSpan (n h c w : Nat) : Bool := decide ((h + n - c) % n ≤ (w + n - c) % n)

/-- The head check of TX.RECLAIM passes: `h` is in the span, or every slot is bound (R158). -/
def State.headInSpan (s : State) (h : Nat) : Bool :=
  inSpan s.eng.n.toNat h s.eng.txC.toNat s.eng.txW.toNat ||
    (decide (s.eng.txW = s.eng.txC) && !s.slotFree s.eng.txW.toNat)

/-- `linkUp(v)` (43_link.md R187). -/
def linkIsUp (c : Config) (v : Word) : Bool := (v &&& c.bLu) != 0

/-- `classify(m)` (42_receive.md R173). -/
def classify (c : Config) (m : Mac) : FrameType :=
  if m = c.adapterMac then .unicast
  else if m = 0xFFFFFFFFFFFF#48 then .broadcast
  else if m.getLsbD 40 then .multicast
  else .promiscuous

/-- `RES4` after a successful RX.POLL (30_encoding.md R109). -/
def res4Word (etype : Half) (k : FrameType) : Word := etype ++ 0#13 ++ k.bits

/-- The filter mask bit UNICAST (30_encoding.md R106). -/
def maskUnicast : BitVec 5 := 0x01

/-- The filter mask bit BROADCAST (R106). -/
def maskBroadcast : BitVec 5 := 0x02

/-- The filter mask bit FMC (R106). -/
def maskFmc : BitVec 5 := 0x04

/-- The filter mask bit PROM (R106). -/
def maskProm : BitVec 5 := 0x08

/-- The filter mask bit ALLMC (R106). -/
def maskAllmc : BitVec 5 := 0x10

/-- Does `m` have the bit `b`? -/
def hasBit (m b : BitVec 5) : Bool := (m &&& b) != 0

/-- `bits(m)`, the receive-control bits of a filter mask (44_filter.md R200). -/
def rxCtrlBits (c : Config) (m : BitVec 5) : Word :=
  (if hasBit m maskProm then c.bUpe else 0) ||| (if hasBit m maskProm || hasBit m maskAllmc then c.bMpe else 0) |||
    (if hasBit m maskBroadcast then c.bBam else 0)

/-- The word `writeRxCtrl(m)` writes when it has read `v` (44_filter.md R200). Where `B_RX_EN` is one of the filter's masks, the formula is
followed and `B_RX_EN` is not kept: DESIGN CHOICE (notes/assumptions/39.md), unsafe. -/
def rxCtrlWord (c : Config) (m : BitVec 5) (v : Word) : Word :=
  (v &&& ~~~(c.bUpe ||| c.bMpe ||| c.bBam)) ||| rxCtrlBits c m

end Sys2Proof.Machine
end

