-- ==== Sys2Proof/Machine/Device.lean ====
section
/-! DEFINITION. The NIC device agent: its steps within the contract of 20_memory.md R79 to R88. A step that is not
enabled, or that the contract forbids (R85), is no move: it changes nothing. DEDUCED (notes/assumptions/13.md), unsafe. -/

namespace Sys2Proof.Machine

/-- The engine address of the `n` bytes at device address `da` by the live mappings: the range must lie in one of them, and the
newest such one is used (20_memory.md R59, R85). DESIGN CHOICE (notes/assumptions/11.md), unsafe. For `n` = 0, a step that moves no
byte, a mapping must hold the address all the same: DESIGN CHOICE (notes/assumptions/36.md), unsafe. -/
def lookupMapping (da n : Nat) : List Mapping → Option Addr
  | [] => none
  | m :: ms =>
    if m.da.toNat ≤ da ∧ da + n ≤ m.da.toNat + m.len then some (m.va + BitVec.ofNat 64 (da - m.da.toNat))
    else lookupMapping da n ms

/-- The engine address the NIC reaches with `n` bytes at device address `da`, if any: a live mapping that covers them, else the
bytes of the ring regions, which are identity-mapped (20_memory.md R59). A mapping whose device addresses lie in a ring region
goes before the identity: DESIGN CHOICE (notes/assumptions/30.md), unsafe. -/
def State.deviceRange (s : State) (da : Addr) (n : Nat) : Option Addr :=
  match lookupMapping da.toNat n s.maps with
  | some va => some va
  | none => if insideRings s.cfg da.toNat n then some da else none

/-- The number of slots of the NIC's transmit ring: `length / 16` (20_memory.md R84). -/
def Nic.txSize (d : Nic) : Nat := d.tdlen.toNat / 16

/-- The number of slots of the NIC's receive ring (R84). -/
def Nic.rxSize (d : Nic) : Nat := d.rdlen.toNat / 16

/-- The device address of slot `i` of the NIC's transmit ring (R84). -/
def Nic.txSlot (d : Nic) (i : Nat) : Addr := (d.tdbah ++ d.tdbal) + BitVec.ofNat 64 (16 * i)

/-- The device address of slot `i` of the NIC's receive ring (R84). -/
def Nic.rxSlot (d : Nic) (i : Nat) : Addr := (d.rdbah ++ d.rdbal) + BitVec.ofNat 64 (16 * i)

/-- The head and tail register values `h ≠ t` are slots of a ring of `n` slots (10_state.md R52). DEDUCED
(notes/assumptions/16.md), safe. -/
def ringActive (n : Nat) (h t : Word) : Bool := h != t && decide (h.toNat < n) && decide (t.toNat < n)

/-- Is the NIC transmit step enabled (20_memory.md R80)? -/
def State.txStepEnabled (s : State) : Bool :=
  ringActive s.nic.txSize s.nic.tdh s.nic.tdt && (s.nic.txCtrl &&& s.cfg.bTxEn) != 0 &&
    (!s.cfg.queueHandshake || s.nic.txqOn) && insideRings s.cfg (s.nic.txSlot s.nic.tdh.toNat).toNat 16

/-- Is the NIC receive step enabled (20_memory.md R81)? -/
def State.rxStepEnabled (s : State) : Bool :=
  ringActive s.nic.rxSize s.nic.rdh s.nic.rdt && (s.nic.rxCtrl &&& s.cfg.bRxEn) != 0 &&
    (!s.cfg.queueHandshake || s.nic.rxqOn) && insideRings s.cfg (s.nic.rxSlot s.nic.rdh.toNat).toNat 16

/-- The head after slot `h` of a ring of `n` slots: it moves by one slot (R80, R81, R85). -/
def headNext (n : Nat) (h : Word) : Word := BitVec.ofNat 32 ((h.toNat + 1) % n)

/-- Memory after the NIC has set DD in the transmit descriptor at `a`, whose record is `d` (R80). -/
def setDone (c : Config) (m : List (Nat × Byte)) (a : Addr) (d : TxRec) : List (Nat × Byte) :=
  match c.descFormat with
  | .legacy => writeBytes m (a + 12) [d.sta ||| staDd]
  | .advanced => writeBytes m a (descBytes (encodeTxNic c { d with sta := d.sta ||| staDd }))

/-- The effect of the NIC transmit step on the descriptor `d` at `a`, whose buffer holds `bytes` (20_memory.md R80, R88). -/
def State.txStepEffect (s : State) (a : Addr) (d : TxRec) (bytes : List Byte) : State :=
  let frame := s.nic.assembling ++ bytes
  let eop := (d.cmd &&& cmdEop) != 0
  { s with
    mem := if (d.cmd &&& cmdRs) != 0 then setDone s.cfg s.mem a d else s.mem
    wire := if eop then frame :: s.wire else s.wire
    nic := { s.nic with
      assembling := if eop then [] else frame
      tdh := headNext s.nic.txSize s.nic.tdh } }

/-- The NIC transmit step (20_memory.md R80). -/
def State.nicTransmit (s : State) : State :=
  if s.txStepEnabled then
    let a := s.nic.txSlot s.nic.tdh.toNat
    let d := decodeTx s.cfg (readDesc s.mem a)
    match s.deviceRange d.addr d.length.toNat with
    | none => s
    | some va => s.txStepEffect a d (readBytes s.mem va d.length.toNat)
  else s

/-- Do the NIC's choices for a receive step keep to R81: the done bit set, and no more bytes than a receive buffer
holds (`E.B`, once the rings are set up)? DEDUCED (notes/assumptions/15.md), safe. -/
def State.receiveChoiceOk (s : State) (data : List Byte) (wb : RxRec) : Bool :=
  (wb.sta &&& staDd) != 0 && (!s.eng.hwInit || decide (data.length ≤ s.eng.b.toNat))

/-- The NIC receive step (20_memory.md R81, R87): the bytes, then the write-back, then the head. The bytes go through a live
mapping, also where its device addresses lie in a ring region: DESIGN CHOICE (notes/assumptions/30.md), unsafe. -/
def State.nicReceive (s : State) (data : List Byte) (wb : RxRec) : State :=
  if s.rxStepEnabled && s.receiveChoiceOk data wb then
    let a := s.nic.rxSlot s.nic.rdh.toNat
    let d := decodeRx s.cfg (readDesc s.mem a)
    match lookupMapping d.addr.toNat data.length s.maps with
    | none => s
    | some va =>
      { s with
        mem := writeBytes (writeBytes s.mem va data) a (descBytes (encodeRxNic s.cfg wb))
        nic := { s.nic with rdh := headNext s.nic.rxSize s.nic.rdh } }
  else s

/-- The NIC link step (20_memory.md R82). -/
def State.nicLink (s : State) (up : Bool) : State :=
  s.setNic { s.nic with
    status := if up then s.nic.status ||| s.cfg.bLu else s.nic.status &&& ~~~s.cfg.bLu }

/-- The NIC queue handshake step (20_memory.md R83). -/
def State.nicQueue (s : State) (q : Queue) : State :=
  if s.cfg.queueHandshake then
    match q with
    | .rx => s.setNic { s.nic with rxqOn := (s.nic.rxqCtl &&& s.cfg.bQen) != 0 }
    | .tx => s.setNic { s.nic with txqOn := (s.nic.txqCtl &&& s.cfg.bQen) != 0 }
  else s

/-- One step of the NIC device agent (20_memory.md R79). -/
def State.nicStep (s : State) : NicStep → State
  | .transmit => s.nicTransmit
  | .receive data wb => s.nicReceive data wb
  | .link up => s.nicLink up
  | .phy v => s.setNic { s.nic with phy := v }
  | .queue q => s.nicQueue q
  | .corruptHead v => s.setNic { s.nic with tdh := v }

end Sys2Proof.Machine
end

