-- ==== Sys2Proof/Machine/HostAgent.lean ====
section
/-! DEFINITION. The host agent (10_state.md R20): register accesses, the start and the overrun of a command
(30_encoding.md R95, R99; 60_exceptions.md R233), host memory (20_memory.md R92), the lock (R89). -/

namespace Sys2Proof.Machine

/-- Command start (30_encoding.md R95, R99): one atomic step that latches the word and the operands, clears the result
registers and makes the engine run; the decode is the engine's next step. -/
def State.startCmd (s : State) (w : Word) : State :=
  (s.setRegs { s.regs with res0 := 0, res1 := 0, res2 := 0, res3 := 0, res4 := 0 }).goto
    { word := w, arg0 := s.regs.arg0, arg1 := s.regs.arg1, arg2 := s.regs.arg2 } .decode

/-- A host write of `CMD` while a command runs: the word is dropped and `OVR` is set (60_exceptions.md R233). -/
def State.overrun (s : State) : State := s.setEng { s.eng with ovr := true }

/-- A host write of `CMD` (10_state.md R29). -/
def State.cmdWrite (s : State) (w : Word) : State :=
  match s.eng.seq with
  | .idle => s.startCmd w
  | .running _ _ => s.overrun

/-- A host write of the register at byte offset `off`: reserved offsets and read-only registers ignore it (10_state.md
R28, R31). -/
def State.hostWrite (s : State) (off : Nat) (v : Word) : State :=
  match off with
  | 0x00 => s.cmdWrite v
  | 0x08 => s.setRegs { s.regs with arg0 := s.regs.arg0.extractLsb' 32 32 ++ v }
  | 0x0C => s.setRegs { s.regs with arg0 := v ++ s.regs.arg0.extractLsb' 0 32 }
  | 0x10 => s.setRegs { s.regs with arg1 := v }
  | 0x14 => s.setRegs { s.regs with arg2 := v }
  | _ => s

/-- Does some range of the list meet `[a, a + n)`? -/
def anyMeets (a n : Nat) (rs : List (Nat × Nat)) : Bool := rs.any (fun r => rangesMeet a n r.1 r.2)

/-- The ranges the block owns (20_memory.md R92): bound transmit buffers, the receive buffers once the rings are set up,
and the caller structures of the running command. They are those of the binding tables, so a reset of the block, which empties
them (70_reset_and_hazards.md R257), ends them. DESIGN CHOICE (notes/assumptions/32.md), safe. -/
def State.ownedRanges (s : State) : List (Nat × Nat) :=
  s.eng.txTab.map (fun e => (e.2.va.toNat, e.2.len.toNat)) ++
    s.eng.rxTab.map (fun e => (e.2.va.toNat, s.eng.b.toNat)) ++
    (match s.eng.seq with
    | .idle => []
    | .running l _ => callerRanges s.cfg s.mem l)

/-- May the host write `[a, a + n)` now (20_memory.md R66, R92)? What it may not write is no move: DEDUCED
(notes/assumptions/13.md), unsafe. Nor is a store whose range passes 2^64, on which R62 and R92 say nothing: DESIGN CHOICE
(notes/assumptions/40.md), unsafe. -/
def State.hostMayStore (s : State) (a n : Nat) : Bool :=
  decide (a + n ≤ 2 ^ 64) && !overlapsRings s.cfg a n && !anyMeets a n s.ownedRanges

/-- The NIC with receiver and transmitter stopped: receive-enable and transmit-enable 0, the queues disabled
(70_reset_and_hazards.md R261). -/
def Nic.stopped (c : Config) (d : Nic) : Nic :=
  { d with
    rxCtrl := d.rxCtrl &&& ~~~c.bRxEn
    txCtrl := d.txCtrl &&& ~~~c.bTxEn
    rxqCtl := d.rxqCtl &&& ~~~c.bQen
    txqCtl := d.txqCtl &&& ~~~c.bQen
    rxqOn := false
    txqOn := false }

/-- May the host stop or reset the NIC now: before INIT, while no command runs (R261)? DEDUCED (notes/assumptions/20.md), safe. The
lock is not asked for: DESIGN CHOICE (notes/assumptions/37.md), safe. -/
def State.nicIdle (s : State) : Bool := !s.eng.hwInit && !s.eng.seq.busy

/-- The host stops the NIC before INIT (R261); the rest of the NIC stays. The frame it is assembling stays: DESIGN CHOICE
(notes/assumptions/31.md), unsafe. -/
def State.stopNic (s : State) : State :=
  if s.nicIdle then s.setNic (s.nic.stopped s.cfg) else s

/-- The host resets the NIC before INIT (R258, R261, R270). The reset leaves receiver and transmitter stopped, as R261 asks, and in all else
what the input says: no rule gives the values, so each is free. A multicast list longer than `P_MAX_MCAST` is no outcome:
DESIGN CHOICE (notes/assumptions/41.md), unsafe. -/
def State.resetNic (s : State) (d : Nic) : State :=
  if s.nicIdle && decide (d.mcast.length ≤ s.cfg.maxMcast) then s.setNic (d.stopped s.cfg) else s

/-- One step of the host agent (10_state.md R20). A store to memory the block owns is no move (20_memory.md R92): DEDUCED
(notes/assumptions/13.md), unsafe. -/
def State.hostStep (s : State) : HostStep → State
  | .write off v => s.hostWrite off v
  | .read off => { s with reads := (off, s.hostRead off) :: s.reads }
  | .store a bytes =>
    if s.hostMayStore a.toNat bytes.length then s.setMem (writeBytes s.mem a bytes) else s
  | .load _ => s
  | .lock => if s.eng.lockHeld then s else { s with lockOther := true }
  | .unlock => { s with lockOther := false }
  | .stopNic => s.stopNic
  | .resetNic d => s.resetNic d

/-- What an input from outside does to the state. The engine's own turns are not an effect of the outside. -/
def State.outside (s : State) : Input → State
  | .engine => s
  | .await => s
  | .nic n => s.nicStep n
  | .host h => s.hostStep h
  | .reset => s.blockReset

end Sys2Proof.Machine
end

