-- ==== Sys2Proof/Machine/Lifecycle.lean ====
section
/-! DEFINITION. The beginnings of the start and stop procedures of the queues (45_lifecycle.md R213 to R220) and
INT.MASK (R222). Every function here is one step of the engine or the choice of its next one (00_scope.md R16). -/

namespace Sys2Proof.Machine

/-- The queue-control register of a queue (R211). -/
def queueReg : Queue → NicReg
  | .rx => .rxqCtl
  | .tx => .txqCtl

/-- The control register of a queue's unit (R213, R217). -/
def unitReg : Queue → NicReg
  | .rx => .rxCtrl
  | .tx => .txCtrl

/-- The enable bit of a queue's unit (10_state.md R51). -/
def unitBit (c : Config) : Queue → Word
  | .rx => c.bRxEn
  | .tx => c.bTxEn

/-- `E.rxStarted <- on` or `E.txqEnabled <- on`. -/
def State.setStarted (s : State) (q : Queue) (on : Bool) : State :=
  match q with
  | .rx => s.setEng { s.eng with rxStarted := on }
  | .tx => s.setEng { s.eng with txqEnabled := on }

/-- The first position of `rxStart` or `txStart` (R213, R217). -/
def startQueue (l : Latch) (q : Queue) (r : Return) (s : State) : State :=
  if s.cfg.queueHandshake then s.goto l (.queue (.onRead q r)) else s.goto l (.queue (.enableRead q r))

/-- The first position of `rxStop` or `txStop` (R215, R219). -/
def stopQueue (l : Latch) (q : Queue) (r : Return) (s : State) : State :=
  s.goto l (.queue (.disableRead q r))

/-- The decode step of INT.MASK (R222). -/
def maskStart (l : Latch) (s : State) : State := s.goto l (.mask .clear)

/-- One step of INT.MASK (R222). -/
def maskStep (l : Latch) (p : MaskPoint) (s : State) : State :=
  match p with
  | .clear => (s.regWrite .imc (~~~l.arg1)).goto l (.mask .set)
  | .set =>
    let s' := s.regWrite .ims l.arg1
    (s'.setEng { s'.eng with intMask := l.arg1 }).finish .success

end Sys2Proof.Machine
end

