-- ==== Sys2Proof/Machine/Filter.lean ====
section
/-! DEFINITION. FILTER.SET (44_filter.md R198 to R207). Every function here is one step of the engine, or the
computation that follows one up to the next action (00_scope.md R16). `late` is the command's `st`: a queue
handshake has timed out. -/

namespace Sys2Proof.Machine

/-- FILTER.SET's check, as R198's pseudocode lists it (60_exceptions.md R239). With `P_MAX_MCAST` = 0 no list is read and `ARG0` is
not looked at, where the table of 30_encoding.md R100 has `ARG1 > 0`: DEDUCED (notes/assumptions/34.md), unsafe. A list that
overlaps a ring region passes: DESIGN CHOICE (notes/assumptions/33.md), unsafe; so does one that overlaps a buffer the NIC may own:
DESIGN CHOICE (notes/assumptions/38.md), unsafe. -/
def filterRefused (l : Latch) (s : State) : Bool :=
  l.f0 && decide (0 < mcastCount s.cfg l) && (decide (l.arg0 = 0) || wraps l.arg0 (6 * mcastCount s.cfg l))

/-- Step 3: the tracked mask, and receive started or stopped (R205, R206). -/
def filterEnd (l : Latch) (late : Bool) (s : State) : State :=
  if l.mask ≠ 0 then
    let s' := s.setEng { s.eng with filterMask := l.mask ||| maskUnicast }
    if s.eng.rxStarted then s'.finish (lateStatus late) else startQueue l .rx (.final late) s'
  else
    let s' := s.setEng { s.eng with filterMask := 0 }
    if s.eng.rxStarted then stopQueue l .rx (.final late) s' else s'.finish (lateStatus late)

/-- Does the bit `b` differ between the new mask and the tracked one? -/
def maskDiffers (l : Latch) (s : State) (b : BitVec 5) : Bool := hasBit (l.mask ^^^ s.eng.filterMask) b

/-- Is the list read different from the tracked table (R203)? -/
def listChanged (list : List Mac) (s : State) : Bool :=
  list.length != s.eng.mcCount.toNat || list != mcastList s.eng.mcTable list.length

/-- `E.mcTable[0 .. cnt-1] <- list`, `E.mcCount <- cnt` (R203). -/
def State.setMcastTable (s : State) (list : List Mac) : State :=
  s.setEng { s.eng with
    mcTable := setMcast s.eng.mcTable 0 list, mcCount := BitVec.ofNat 8 list.length }

/-- Step 2 after the list, if any, is read: program the NIC when the list or FMC changed (R203, R204). -/
def filterListed (l : Latch) (list : Option (List Mac)) (late : Bool) (s : State) : State :=
  match list with
  | none => if maskDiffers l s maskFmc then s.goto l (.filter (.acquire .mcast late)) else filterEnd l late s
  | some new =>
    if listChanged new s then (s.setMcastTable new).goto l (.filter (.acquire .mcast late))
    else if maskDiffers l s maskFmc then s.goto l (.filter (.acquire .mcast late))
    else filterEnd l late s

/-- Step 2 (R203, R204). -/
def filterList (l : Latch) (late : Bool) (s : State) : State :=
  if l.f0 then
    if 0 < mcastCount s.cfg l then s.goto l (.filter (.listRead [] late)) else filterListed l (some []) late s
  else filterListed l none late s

/-- The decode step of FILTER.SET: its check and step 1's comparison (R198, R199). -/
def filterStart (l : Latch) (s : State) : State :=
  if filterRefused l s then s.refuse
  else if maskDiffers l s (maskProm ||| maskBroadcast ||| maskAllmc) then
    s.goto l (.filter (.acquire .ctrl false))
  else filterList l false s

/-- The position of a locked change's own action (R201). -/
def changePoint (x : Change) (was late : Bool) : FilterPoint :=
  match x with
  | .ctrl => .ctrlRead was late
  | .mcast => .program was late

/-- `Acquire()` of `lockedRxChange`, then the pause when receive is started (R201). -/
def filterAcquire (l : Latch) (x : Change) (late : Bool) (s : State) : State :=
  if s.lockOther then s
  else if s.eng.rxStarted then stopQueue l .rx (.paused x late) s.acquire
  else s.acquire.goto l (.filter (changePoint x false late))

/-- After the change: the restart when receive was started, else the release (R201). -/
def changeMade (l : Latch) (x : Change) (was late : Bool) (s : State) : State :=
  if was then startQueue l .rx (.resumed x late) s else s.goto l (.filter (.release x late))

/-- The read of `writeRxCtrl(m)` (R200). -/
def filterCtrlRead (l : Latch) (was late : Bool) (s : State) : State :=
  (s.regRead .rxCtrl).goto l (.filter (.ctrlWrite (s.regVal .rxCtrl) was late))

/-- The write of `writeRxCtrl(m)` (R200). -/
def filterCtrlWrite (l : Latch) (v : Word) (was late : Bool) (s : State) : State :=
  changeMade l .ctrl was late (s.regWrite .rxCtrl (rxCtrlWord s.cfg l.mask v))

/-- The list step 2 programs: the tracked table when m has FMC, else the empty list (R204). -/
def programmedList (l : Latch) (s : State) : List Mac :=
  if hasBit l.mask maskFmc then mcastList s.eng.mcTable s.eng.mcCount.toNat else []

/-- `McastProgram(list)` (R204). -/
def filterProgram (l : Latch) (was late : Bool) (s : State) : State :=
  changeMade l .mcast was late (s.mcastProgram (programmedList l s))

/-- `Release()` of `lockedRxChange`, then the next step of the command (R198, R201). -/
def filterRelease (l : Latch) (x : Change) (late : Bool) (s : State) : State :=
  match x with
  | .ctrl => filterList l late s.release
  | .mcast => filterEnd l late s.release

/-- Read one address of the list (R203), also where it lies in a ring region: DESIGN CHOICE (notes/assumptions/33.md), unsafe; or in
a buffer the NIC may own, which 20_memory.md R73 says the engine never reads: DESIGN CHOICE (notes/assumptions/38.md), unsafe. -/
def filterListRead (l : Latch) (acc : List Mac) (late : Bool) (s : State) : State :=
  let a := entryAddr l.arg0 6 acc.length
  let list := acc ++ [macOfBytes (readBytes s.mem a 6)]
  let s' := s.memRead a 6
  if acc.length + 1 < mcastCount s.cfg l then s'.goto l (.filter (.listRead list late))
  else filterListed l (some list) late s'

/-- One step of FILTER.SET outside the start and stop procedures. -/
def filterStep (l : Latch) (p : FilterPoint) (s : State) : State :=
  match p with
  | .acquire x late => filterAcquire l x late s
  | .ctrlRead was late => filterCtrlRead l was late s
  | .ctrlWrite v was late => filterCtrlWrite l v was late s
  | .program was late => filterProgram l was late s
  | .release x late => filterRelease l x late s
  | .listRead acc late => filterListRead l acc late s

end Sys2Proof.Machine
end

