-- ==== Sys2Proof/Machine/Handshake.lean ====
section
/-! DEFINITION. The start and stop procedures and their queue handshake (45_lifecycle.md R211 to R220), with the return to
the command that called them. Every function here is one step of the engine (00_scope.md R16). -/

namespace Sys2Proof.Machine

/-- A start or stop procedure returns; `timedOut` is its result (R213, R215; 44_filter.md R198, R201). -/
def returnTo (l : Latch) (r : Return) (timedOut : Bool) (s : State) : State :=
  match r with
  | .command => s.finish (lateStatus timedOut)
  | .paused x late => s.goto l (.filter (changePoint x true (late || timedOut)))
  | .resumed x late => s.goto l (.filter (.release x (late || timedOut)))
  | .final late => s.finish (lateStatus (late || timedOut))

/-- The read of `queueOn`'s read-modify-write (R211). -/
def onRead (l : Latch) (q : Queue) (r : Return) (s : State) : State :=
  (s.regRead (queueReg q)).goto l (.queue (.onWrite q (s.regVal (queueReg q)) r))

/-- The write of `queueOn`'s read-modify-write (R211). -/
def onWrite (l : Latch) (q : Queue) (v : Word) (r : Return) (s : State) : State :=
  let s' := s.regWrite (queueReg q) (v ||| s.cfg.bQen)
  if 0 < s.cfg.queuePollCount then s'.goto l (.queue (.onPoll q 0 r)) else returnTo l r true s'

/-- One poll of `queueOn` (R211, R213): on the acknowledgement the unit is enabled next. -/
def onPoll (l : Latch) (q : Queue) (k : Nat) (r : Return) (s : State) : State :=
  let v := s.regVal (queueReg q)
  let s' := s.regRead (queueReg q)
  if (v &&& s.cfg.bQen) ≠ 0 then s'.goto l (.queue (.enableRead q r))
  else if k + 1 < s.cfg.queuePollCount then s'.goto l (.queue (.onDelay q k r))
  else returnTo l r true s'

/-- One delay of `queueOn` (R211). -/
def onDelay (l : Latch) (q : Queue) (k : Nat) (r : Return) (s : State) : State :=
  (s.delay s.cfg.queuePollUs).goto l (.queue (.onPoll q (k + 1) r))

/-- The read of the unit's control register at start (R213, R217). -/
def enableRead (l : Latch) (q : Queue) (r : Return) (s : State) : State :=
  (s.regRead (unitReg q)).goto l (.queue (.enableWrite q (s.regVal (unitReg q)) r))

/-- The write that enables the unit (R213, R217). -/
def enableWrite (l : Latch) (q : Queue) (v : Word) (r : Return) (s : State) : State :=
  returnTo l r false ((s.regWrite (unitReg q) (v ||| unitBit s.cfg q)).setStarted q true)

/-- The read of the unit's control register at stop (R215, R219). -/
def disableRead (l : Latch) (q : Queue) (r : Return) (s : State) : State :=
  (s.regRead (unitReg q)).goto l (.queue (.disableWrite q (s.regVal (unitReg q)) r))

/-- The write that disables the unit (R215, R219). -/
def disableWrite (l : Latch) (q : Queue) (v : Word) (r : Return) (s : State) : State :=
  let s' := (s.regWrite (unitReg q) (v &&& ~~~unitBit s.cfg q)).setStarted q false
  if s.cfg.queueHandshake then s'.goto l (.queue (.offRead q r)) else returnTo l r false s'

/-- The read of `queueOff`'s read-modify-write (R211). -/
def offRead (l : Latch) (q : Queue) (r : Return) (s : State) : State :=
  (s.regRead (queueReg q)).goto l (.queue (.offWrite q (s.regVal (queueReg q)) r))

/-- The write of `queueOff`'s read-modify-write (R211). -/
def offWrite (l : Latch) (q : Queue) (v : Word) (r : Return) (s : State) : State :=
  let s' := s.regWrite (queueReg q) (v &&& ~~~s.cfg.bQen)
  if 0 < s.cfg.queuePollCount then s'.goto l (.queue (.offPoll q 0 r)) else returnTo l r true s'

/-- One poll of `queueOff` (R211). -/
def offPoll (l : Latch) (q : Queue) (k : Nat) (r : Return) (s : State) : State :=
  let v := s.regVal (queueReg q)
  let s' := s.regRead (queueReg q)
  if (v &&& s.cfg.bQen) = 0 then returnTo l r false s'
  else if k + 1 < s.cfg.queuePollCount then s'.goto l (.queue (.offDelay q k r))
  else returnTo l r true s'

/-- One delay of `queueOff` (R211). -/
def offDelay (l : Latch) (q : Queue) (k : Nat) (r : Return) (s : State) : State :=
  (s.delay s.cfg.queuePollUs).goto l (.queue (.offPoll q (k + 1) r))

/-- One step of a start or stop procedure. -/
def queueStep (l : Latch) (p : QueuePoint) (s : State) : State :=
  match p with
  | .onRead q r => onRead l q r s
  | .onWrite q v r => onWrite l q v r s
  | .onPoll q k r => onPoll l q k r s
  | .onDelay q k r => onDelay l q k r s
  | .enableRead q r => enableRead l q r s
  | .enableWrite q v r => enableWrite l q v r s
  | .disableRead q r => disableRead l q r s
  | .disableWrite q v r => disableWrite l q v r s
  | .offRead q r => offRead l q r s
  | .offWrite q v r => offWrite l q v r s
  | .offPoll q k r => offPoll l q k r s
  | .offDelay q k r => offDelay l q k r s

end Sys2Proof.Machine
end

