-- ==== Sys2Proof/Machine/Init.lean ====
section
/-! DEFINITION. INIT (40_ring.md R133 to R137). Every function here is one step of the engine: a port action with the
engine-state writes that follow it up to the next action (00_scope.md R16). -/

namespace Sys2Proof.Machine

/-- The address of receive buffer `i` (40_ring.md R133, R135). -/
def poolBuf (l : Latch) (i : Nat) : Addr := l.arg0 + BitVec.ofNat 64 (i * l.arg1.toNat)

/-- INIT's checks, in the order of R133. -/
def initRefused (l : Latch) (s : State) : Bool :=
  s.eng.hwInit || decide (l.imm < 2) || decide (s.cfg.nMax < l.imm) || decide (l.arg1.toNat < 1) ||
    decide (s.cfg.rxBufMax < l.arg1.toNat) || decide (l.arg0 = 0) || wraps l.arg0 (l.imm * l.arg1.toNat) ||
    overlapsRings s.cfg l.arg0.toNat (l.imm * l.arg1.toNat)

/-- The decode step of INIT (R133). -/
def initStart (l : Latch) (s : State) : State :=
  if initRefused l s then s.refuse else s.goto l (.init (.txSlot 0))

/-- Zero `TXD[i]` and its binding (R134). -/
def initTxSlot (l : Latch) (i : Nat) (s : State) : State :=
  ((s.memWrite (txSlotAddr s.cfg i) (descBytes 0)).setTxBinding i noTx).goto l
    (if i + 1 < l.imm then .init (.txSlot (i + 1)) else .init (.mapBuf 0))

/-- Map receive buffer `i`; on `Fail`, undo or finish (R135, R136). -/
def initMapBuf (l : Latch) (i : Nat) (s : State) : State :=
  match s.mapAnswer with
  | .fail =>
    let s' := s.mapCall (poolBuf l i) l.arg1.toNat
    if i = 0 then s'.finish .initFailure else s'.goto l (.init (.undo (i - 1)))
  | .ok d =>
    let va := poolBuf l i
    let da := dev va (.ok d)
    (((s.mapCall va l.arg1.toNat).addMapping da va l.arg1.toNat).setRxBinding i { da := da, va := va }).goto l
      (.init (.rxSlot i))

/-- Write `RXD[i]` with its buffer's device address (R135). -/
def initRxSlot (l : Latch) (i : Nat) (s : State) : State :=
  (s.writeRxd i (rxInit (s.rxBinding i).da)).goto l
    (if i + 1 < l.imm then .init (.mapBuf (i + 1)) else .init (.program 0))

/-- Undo the mapping of receive buffer `j` (R136). -/
def initUndo (l : Latch) (j : Nat) (s : State) : State :=
  let s' := (s.unmap (s.rxBinding j).da l.arg1.toNat).setRxBinding j noRx
  if j = 0 then s'.finish .initFailure else s'.goto l (.init (.undo (j - 1)))

/-- The register writes of `programNic(N)`, in order (R137). -/
def programList (c : Config) (n : Nat) : List (NicReg × Word) :=
  [(.imc, 0xFFFFFFFF#32),
    (.tdbal, c.txRingBase.extractLsb' 0 32), (.tdbah, c.txRingBase.extractLsb' 32 32),
    (.tdlen, BitVec.ofNat 32 (16 * n)), (.tdh, 0), (.tdt, 0),
    (.rdbal, c.rxRingBase.extractLsb' 0 32), (.rdbah, c.rxRingBase.extractLsb' 32 32),
    (.rdlen, BitVec.ofNat 32 (16 * n)), (.rdh, 0), (.rdt, BitVec.ofNat 32 (n - 1))]

/-- The engine-state writes that end INIT (R133). -/
def initDone (l : Latch) (s : State) : State :=
  (s.setEng { s.eng with
    n := immField l.word, b := l.arg1, txW := 0, txC := 0, rxC := 0, hwInit := true }).finish .success

/-- `E.intMask <- 0`, with the first register write (R137). -/
def clearIntMask (s : State) : State := s.setEng { s.eng with intMask := 0 }

/-- The `k`-th register write of `programNic` (R137). -/
def initProgram (l : Latch) (k : Nat) (s : State) : State :=
  match (programList s.cfg l.imm)[k]? with
  | none => initDone l s
  | some (r, v) =>
    let s' := s.regWrite r v
    let s'' := if k = 0 then clearIntMask s' else s'
    if k + 1 < 11 then s''.goto l (.init (.program (k + 1))) else initDone l s''

/-- One step of INIT. -/
def initStep (l : Latch) (p : InitPoint) (s : State) : State :=
  match p with
  | .txSlot i => initTxSlot l i s
  | .mapBuf i => initMapBuf l i s
  | .rxSlot i => initRxSlot l i s
  | .undo j => initUndo l j s
  | .program k => initProgram l k s

end Sys2Proof.Machine
end

