-- ==== Sys2Proof/Machine/Reclaim.lean ====
section
/-! DEFINITION. TX.RECLAIM (41_transmit.md R157 to R160). Every function here is one step of the engine
(00_scope.md R16). -/

namespace Sys2Proof.Machine

/-- TX.RECLAIM's checks (R157). An output array that overlaps a ring region passes them: DESIGN CHOICE
(notes/assumptions/33.md), unsafe; so does one that overlaps a buffer the NIC may own: DESIGN CHOICE (notes/assumptions/38.md),
unsafe. -/
def reclaimRefused (l : Latch) : Bool :=
  decide (0 < l.imm) && (decide (l.arg0 = 0) || wraps l.arg0 (8 * l.imm))

/-- `R.RES2 <- k`. -/
def State.setRes2 (s : State) (v : Word) : State := s.setRegs { s.regs with res2 := v }

/-- The decode step of TX.RECLAIM (R157). -/
def reclaimStart (l : Latch) (s : State) : State :=
  if reclaimRefused l then s.refuse
  else if l.imm = 0 then (s.setRes2 0).finish .success
  else s.goto l (.reclaim .head)

/-- The stop conditions before the slot is read: `maxEntries`, the head (not for the first slot), a free slot (R159). -/
def reclaimNext (l : Latch) (h : Word) (k : Nat) (s : State) : State :=
  if l.imm ≤ k then s.finish .success
  else if s.eng.txC.toNat = h.toNat ∧ 0 < k then s.finish .success
  else if s.slotFree s.eng.txC.toNat then s.finish .success
  else s.goto l (.reclaim (.read h k))

/-- Read the head and check it (R158). -/
def reclaimHead (l : Latch) (s : State) : State :=
  let h := s.regVal .tdh
  let s' := s.regRead .tdh
  if s.eng.n.toNat ≤ h.toNat then s'.raiseFault .headOutOfRange
  else if s.headInSpan h.toNat then reclaimNext l h 0 s'
  else s'.raiseFault .headOutsideWindow

/-- Read the descriptor at the cleanup cursor and test its done bit (R157, R159). -/
def reclaimRead (l : Latch) (h : Word) (k : Nat) (s : State) : State :=
  let i := s.eng.txC.toNat
  let d := s.txRecAt i
  let s' := s.memRead (txSlotAddr s.cfg i) 16
  if txDone d then s'.goto l (.reclaim (.unmap h k d)) else s'.finish .success

/-- Unmap the buffer (R160). -/
def reclaimUnmap (l : Latch) (h : Word) (k : Nat) (d : TxRec) (s : State) : State :=
  let b := s.txBinding s.eng.txC.toNat
  (s.unmap b.bind b.len.toNat).goto l (.reclaim (.output h k d))

/-- Write the caller's address to the output array (R160, 30_encoding.md R112), also where it overlaps a ring region, so that
this write can set a done bit against 40_ring.md R142: DESIGN CHOICE (notes/assumptions/33.md), unsafe. -/
def reclaimOutput (l : Latch) (h : Word) (k : Nat) (d : TxRec) (s : State) : State :=
  (s.memWrite (entryAddr l.arg0 8 k) (leBytes 8 (s.txBinding s.eng.txC.toNat).va.toNat)).goto l
    (.reclaim (.clear h k d))

/-- Clear the done bit, free the slot and advance the cleanup cursor (R157, R160). -/
def reclaimClear (l : Latch) (h : Word) (k : Nat) (d : TxRec) (s : State) : State :=
  let i := s.eng.txC
  let w := staWrite s.cfg i.toNat d (d.sta &&& ~~~staDd)
  let s' := (s.memWrite w.1 w.2).setTxBinding i.toNat noTx
  let s'' := s'.setEng { s'.eng with txC := adv i s.eng.n }
  reclaimNext l h (k + 1) (s''.setRes2 (BitVec.ofNat 32 (k + 1)))

/-- One step of TX.RECLAIM. -/
def reclaimStep (l : Latch) (p : ReclaimPoint) (s : State) : State :=
  match p with
  | .head => reclaimHead l s
  | .read h k => reclaimRead l h k s
  | .unmap h k d => reclaimUnmap l h k d s
  | .output h k d => reclaimOutput l h k d s
  | .clear h k d => reclaimClear l h k d s

end Sys2Proof.Machine
end

