-- ==== Sys2Proof/Machine/Link.lean ====
section
/-! DEFINITION. LINK.WAIT (43_link.md R184 to R193). Every function here is one step of the engine
(00_scope.md R16). -/

namespace Sys2Proof.Machine

/-- `E.link <- x`. -/
def State.setLink (s : State) (x : LinkState) : State := s.setEng { s.eng with link := x }

/-- The end of `linkIsUp()` (R185, R189). -/
def linkUpDone (s : State) : State := ((s.setLink .linkUp).setRes2 1).finish .success

/-- `linkIsUp()`: the settle delay when there is one (R189). -/
def linkUpSeen (l : Latch) (s : State) : State :=
  if 0 < s.cfg.linkSettleUs then s.goto l (.link .settle) else linkUpDone s

/-- `linkFailed()` (R185, R192). -/
def linkFailed (s : State) : State := ((s.setLink .failed).setRes2 0).finish .timeout

/-- After the PHY indicator: DownshiftRetry (R190, R191). -/
def startRetry (l : Latch) (s : State) : State :=
  let s' := s.setLink .downshiftRetry
  if 0 < s.cfg.downshiftPollCount then s'.goto l (.link (.retryDelay 0)) else linkFailed s'

/-- After the first window without link up (R185, R190). -/
def windowOver (l : Latch) (s : State) : State :=
  if !s.cfg.phyDownshift then linkFailed s
  else if 0 < s.cfg.phyProbeCount then s.goto l (.link (.phyRead 0))
  else linkFailed s

/-- The decode step of LINK.WAIT (R185, R193). -/
def linkStart (l : Latch) (s : State) : State :=
  if l.f0 then
    let s' := s.setLink .negotiating
    if 0 < s.cfg.linkPollCount then s'.goto l (.link (.read 0)) else windowOver l s'
  else (s.setRes2 1).finish .success

/-- One read of the first window (R188). -/
def linkRead (l : Latch) (k : Nat) (s : State) : State :=
  let v := s.regVal .status
  let s' := s.regRead .status
  if linkIsUp s.cfg v then linkUpSeen l s'
  else if k + 1 < s.cfg.linkPollCount then s'.goto l (.link (.delay k))
  else windowOver l s'

/-- One delay of the first window (R188). -/
def linkDelay (l : Latch) (k : Nat) (s : State) : State :=
  (s.delay s.cfg.linkPollUs).goto l (.link (.read (k + 1)))

/-- One read of the PHY probe (R190). -/
def linkPhyRead (l : Latch) (k : Nat) (s : State) : State :=
  let s' := s.phyRead
  if (s.nic.phy &&& s.cfg.phyMask) ≠ 0 then startRetry l s'
  else if k + 1 < s.cfg.phyProbeCount then s'.goto l (.link (.phyDelay k))
  else linkFailed s'

/-- One delay of the PHY probe (R190). -/
def linkPhyDelay (l : Latch) (k : Nat) (s : State) : State :=
  (s.delay s.cfg.phyProbeUs).goto l (.link (.phyRead (k + 1)))

/-- The delay of a round of DownshiftRetry (R191). -/
def linkRetryDelay (l : Latch) (k : Nat) (s : State) : State :=
  (s.delay s.cfg.downshiftPollUs).goto l (.link (.retryRead k))

/-- The read of a round of DownshiftRetry (R191). -/
def linkRetryRead (l : Latch) (k : Nat) (s : State) : State :=
  let v := s.regVal .status
  let s' := s.regRead .status
  if linkIsUp s.cfg v then linkUpSeen l s'
  else if k + 1 < s.cfg.downshiftPollCount then s'.goto l (.link (.retryDelay (k + 1)))
  else linkFailed s'

/-- The settle delay (R189). -/
def linkSettle (s : State) : State := linkUpDone (s.delay s.cfg.linkSettleUs)

/-- One step of LINK.WAIT. -/
def linkStep (l : Latch) (p : LinkPoint) (s : State) : State :=
  match p with
  | .read k => linkRead l k s
  | .delay k => linkDelay l k s
  | .phyRead k => linkPhyRead l k s
  | .phyDelay k => linkPhyDelay l k s
  | .retryDelay k => linkRetryDelay l k s
  | .retryRead k => linkRetryRead l k s
  | .settle => linkSettle s

end Sys2Proof.Machine
end

