-- ==== Sys2Proof/Machine/Receive.lean ====
section
/-! DEFINITION. RX.POLL (42_receive.md R167 to R174, R179, R180). Every function here is one step of the engine
(00_scope.md R16). -/

namespace Sys2Proof.Machine

/-- RX.POLL's checks, in the order of R167. A destination that overlaps a ring region passes them: DESIGN CHOICE
(notes/assumptions/33.md), unsafe; so does one that overlaps the receive pool: DESIGN CHOICE (notes/assumptions/38.md), unsafe. -/
def pollRefused (l : Latch) (s : State) : Bool :=
  (decide (0 < l.arg1.toNat) && (decide (l.arg0 = 0) || wraps l.arg0 l.arg1.toNat)) ||
    (s.cfg.queueHandshake && !s.eng.rxStarted)

/-- The decode step of RX.POLL (R167, R179). -/
def pollStart (l : Latch) (s : State) : State :=
  if pollRefused l s then s.refuse else s.goto l (.rx .read)

/-- `m = min(L, E.B)` (R167). -/
def frameBytes (s : State) (len : Half) : Nat := min len.toNat s.eng.b.toNat

/-- `n = min(L, C, E.B)` (R170). -/
def copyCount (l : Latch) (s : State) (len : Half) : Nat := min (frameBytes s len) l.arg1.toNat

/-- Count a truncated frame (R172). -/
def countTrunc (s : State) (len : Half) (n : Nat) : State :=
  if n < len.toNat then s.setEng { s.eng with rxTrunc := s.eng.rxTrunc + 1 } else s

/-- Read the descriptor at the receive cursor (R168, R169). -/
def pollRead (l : Latch) (s : State) : State :=
  let c := s.eng.rxC.toNat
  let d := s.rxRecAt c
  let s' := s.memRead (rxSlotAddr s.cfg c) 16
  if !rxDone s.cfg d then s'.finish .noData
  else if d.length = 0 ∨ d.errors ≠ 0 then s'.goto l (.rx (.rearm none))
  else
    let n := copyCount l s d.length
    if 0 < n then s'.goto l (.rx (.copy d.length n))
    else (countTrunc s' d.length n).goto l (.rx (.header d.length n))

/-- Copy the frame to the caller (R170, R172), also where its buffer overlaps a ring region, so that this copy can set a done
bit against 40_ring.md R142: DESIGN CHOICE (notes/assumptions/33.md), unsafe; and where it overlaps a receive buffer, all bytes
being read before any is written: DESIGN CHOICE (notes/assumptions/38.md), unsafe. -/
def pollCopy (l : Latch) (len : Half) (n : Nat) (s : State) : State :=
  (countTrunc (s.copyBytes l.arg0 (s.rxBinding s.eng.rxC.toNat).va n) len n).goto l (.rx (.header len n))

/-- The 14 header bytes: those of the frame, then zeros (R171). -/
def headerBytes (s : State) (len : Half) : List Byte :=
  padTo 14 (readBytes s.mem (s.rxBinding s.eng.rxC.toNat).va (min (frameBytes s len) 14))

/-- What the header says of the frame (R171, R173). -/
def reportOf (c : Config) (h : List Byte) (n : Nat) (len : Half) : RxReport where
  dst := macOfBytes (h.take 6)
  src := macOfBytes ((h.drop 6).take 6)
  etype := BitVec.ofNat 16 (beNat 0 ((h.drop 12).take 2))
  copied := n
  length := len
  kind := classify c (macOfBytes (h.take 6))

/-- Read the header (R171, R173). -/
def pollHeader (l : Latch) (len : Half) (n : Nat) (s : State) : State :=
  (s.memRead (s.rxBinding s.eng.rxC.toNat).va (min (frameBytes s len) 14)).goto l
    (.rx (.rearm (some (reportOf s.cfg (headerBytes s len) n len))))

/-- The first action of `rearm(c)`: the descriptor's INIT value (R174). -/
def pollRearm (l : Latch) (report : Option RxReport) (s : State) : State :=
  let c := s.eng.rxC.toNat
  (s.writeRxd c (rxInit (s.rxBinding c).da)).goto l (.rx (.tail report))

/-- The result registers of a delivered frame (R167, 30_encoding.md R103, R109). -/
def State.setReport (s : State) (r : RxReport) : State :=
  s.setRegs { s.regs with
    res0 := r.dst.setWidth 64
    res1 := r.src.setWidth 64
    res2 := BitVec.ofNat 32 r.copied
    res3 := r.length.setWidth 32
    res4 := res4Word r.etype r.kind }

/-- The tail write and the cursor of `rearm(c)`, then the end of the command (R167, R169, R174). -/
def pollTail (report : Option RxReport) (s : State) : State :=
  let c := s.eng.rxC
  let s' := s.regWrite .rdt (c.setWidth 32)
  let s'' := s'.setEng { s'.eng with rxC := adv c s.eng.n }
  match report with
  | none => s''.finish .noData
  | some r => (s''.setReport r).finish .success

/-- One step of RX.POLL. -/
def rxStep (l : Latch) (p : RxPoint) (s : State) : State :=
  match p with
  | .read => pollRead l s
  | .copy len n => pollCopy l len n s
  | .header len n => pollHeader l len n s
  | .rearm report => pollRearm l report s
  | .tail report => pollTail report s

end Sys2Proof.Machine
end

