-- ==== Sys2Proof/Machine/Transmit.lean ====
section
/-! DEFINITION. TX.SEND and TX.SENDF (41_transmit.md R145 to R156, R161). Every function here is one step of the
engine (00_scope.md R16). -/

namespace Sys2Proof.Machine

/-- The transmit queue is not enabled on a family that needs it (R161). -/
def txQueueClosed (s : State) : Bool := s.cfg.queueHandshake && !s.eng.txqEnabled

/-- TX.SEND's checks, in the order of R145. A buffer that overlaps a ring region passes them: DESIGN CHOICE
(notes/assumptions/33.md), unsafe; so does one that overlaps the receive pool: DESIGN CHOICE (notes/assumptions/38.md), unsafe. -/
def sendRefused (l : Latch) (s : State) : Bool :=
  decide (l.arg1Hi ≠ 0) || decide (l.arg1Lo = 0) || decide (l.arg0 = 0) || wraps l.arg0 l.arg1Lo.toNat ||
    (l.f1 && decide (l.arg2Hi ≠ 0)) || txQueueClosed s

/-- The decode step of TX.SEND (R145, R146). -/
def sendStart (l : Latch) (s : State) : State :=
  if sendRefused l s then s.refuse
  else if s.slotFree s.eng.txW.toNat then s.goto l (.tx .sendMap)
  else s.finish .busy

/-- Map the frame (R147). -/
def sendMap (l : Latch) (s : State) : State :=
  (s.mapTx l.arg0 l.arg1Lo.toNat).goto l (.tx (.sendAcquire (dev l.arg0 s.mapAnswer)))

/-- `Acquire()`: granted when no other software holds the lock, else the engine waits here (R150, 20_memory.md R89). -/
def acquireOrWait (l : Latch) (next : Point) (s : State) : State :=
  if s.lockOther then s else s.acquire.goto l next

/-- Write descriptor `E.txW` for a buffer, bind the slot and advance the write cursor (R148, R149). -/
def pushDesc (s : State) (va : Addr) (len : Half) (da : Addr) (cmd : Byte) (tag : Half) : State :=
  let i := s.eng.txW
  let s' := (s.writeTxd i.toNat (txDesc da len cmd tag)).setTxBinding i.toNat { bind := da, va := va, len := len }
  s'.setEng { s'.eng with txW := adv i s.eng.n }

/-- Write the descriptor of TX.SEND (R145). -/
def sendWrite (l : Latch) (da : Addr) (s : State) : State :=
  (pushDesc s l.arg0 l.arg1Lo da (txCmd true l.f1) l.tag).goto l (.tx (.tail s.eng.txW))

/-- The tail write (R150, R155). -/
def txTail (l : Latch) (slot : Half) (s : State) : State :=
  (s.regWrite .tdt (s.eng.txW.setWidth 32)).goto l (.tx (.unlock slot))

/-- `Release()`, then the blocking wait when it is asked for (R145, R151, R152). -/
def txUnlock (l : Latch) (slot : Half) (s : State) : State :=
  let s' := s.release
  if l.f0 then
    (if 0 < s.cfg.txPollCount then s'.goto l (.tx (.waitRead slot 0)) else s'.finish .deviceFailure)
  else s'.finish .success

/-- One read of `waitDone` (R151). -/
def waitRead (l : Latch) (slot : Half) (k : Nat) (s : State) : State :=
  let d := s.txRecAt slot.toNat
  let s' := s.memRead (txSlotAddr s.cfg slot.toNat) 16
  if txDone d then s'.finish .success
  else if k + 1 < s.cfg.txPollCount then s'.goto l (.tx (.waitDelay slot k))
  else s'.finish .deviceFailure

/-- One delay of `waitDone` (R151). -/
def waitDelay (l : Latch) (slot : Half) (k : Nat) (s : State) : State :=
  (s.delay s.cfg.txPollUs).goto l (.tx (.waitRead slot (k + 1)))

/-- TX.SENDF's checks before any action, in the order of R152. A list or buffer that overlaps a ring region passes them: DESIGN
CHOICE (notes/assumptions/33.md), unsafe; so does one that overlaps a buffer the NIC may own: DESIGN CHOICE
(notes/assumptions/38.md), unsafe. -/
def sendfRefused (l : Latch) (s : State) : Bool :=
  decide (l.imm < 1) || decide (min s.cfg.maxFrags s.eng.n.toNat < l.imm) || decide (l.arg0 = 0) ||
    wraps l.arg0 (16 * l.imm) || (l.f1 && decide (l.arg2Hi ≠ 0)) || txQueueClosed s

/-- The decode step of TX.SENDF (R152). -/
def sendfStart (l : Latch) (s : State) : State :=
  if sendfRefused l s then s.refuse else s.goto l (.tx (.fragRead []))

/-- Are the `f` slots from the write cursor on all free (R146, R153)? -/
def State.slotsFree (s : State) (f : Nat) : Bool :=
  (List.range f).all (fun j => s.slotFree (slotFrom s.eng.txW s.eng.n j))

/-- The fragments of a list read whole, or none when some entry is illegal (R153). -/
def allFrags : List (Option Frag) → Option (List Frag)
  | [] => some []
  | none :: _ => none
  | some f :: es => (allFrags es).map (f :: ·)

/-- After the whole list is read: an illegal entry ends the command `Refused`, a bound slot `Busy`; else map the fragments
(R152, R153). -/
def fragsRead (l : Latch) (entries : List (Option Frag)) (s : State) : State :=
  match allFrags entries with
  | none => s.refuse
  | some [] => s.refuse
  | some (f :: todo) => if s.slotsFree l.imm then s.goto l (.tx (.fragMap f todo [])) else s.finish .busy

/-- Read one list entry. All of them are read before an illegal one ends the command (R153; 95_test_vectors.md T11). DEDUCED
(notes/assumptions/25.md), safe. It is read also where it lies in a buffer the NIC may own: DESIGN CHOICE (notes/assumptions/38.md),
unsafe. -/
def fragRead (l : Latch) (acc : List (Option Frag)) (s : State) : State :=
  let a := entryAddr l.arg0 16 acc.length
  let entries := acc ++ [fragOf (readDesc s.mem a)]
  let s' := s.memRead a 16
  if acc.length + 1 < l.imm then s'.goto l (.tx (.fragRead entries)) else fragsRead l entries s'

/-- The position after a fragment is mapped: the next one, or the lock. -/
def afterFragMap (todo : List Frag) (done : List MappedFrag) (m : MappedFrag) : TxPoint :=
  match todo with
  | f :: todo' => .fragMap f todo' (done ++ [m])
  | [] =>
    match done with
    | [] => .fragAcquire m []
    | d :: ds => .fragAcquire d (ds ++ [m])

/-- Map one fragment (R147, R152). -/
def fragMap (l : Latch) (f : Frag) (todo : List Frag) (done : List MappedFrag) (s : State) : State :=
  (s.mapTx f.va f.len.toNat).goto l
    (.tx (afterFragMap todo done { va := f.va, len := f.len, da := dev f.va s.mapAnswer }))

/-- Write one fragment's descriptor (R154). -/
def fragWrite (l : Latch) (f : MappedFrag) (rest : List MappedFrag) (s : State) : State :=
  (pushDesc s f.va f.len f.da (txCmd rest.isEmpty l.f1) l.tag).goto l
    (match rest with
    | [] => .tx (.tail s.eng.txW)
    | g :: rest' => .tx (.fragWrite g rest'))

/-- One step of TX.SEND or TX.SENDF. -/
def txStep (l : Latch) (p : TxPoint) (s : State) : State :=
  match p with
  | .sendMap => sendMap l s
  | .sendAcquire da => acquireOrWait l (.tx (.sendWrite da)) s
  | .sendWrite da => sendWrite l da s
  | .fragRead acc => fragRead l acc s
  | .fragMap f todo done => fragMap l f todo done s
  | .fragAcquire f rest => acquireOrWait l (.tx (.fragWrite f rest)) s
  | .fragWrite f rest => fragWrite l f rest s
  | .tail slot => txTail l slot s
  | .unlock slot => txUnlock l slot s
  | .waitRead slot k => waitRead l slot k s
  | .waitDelay slot k => waitDelay l slot k s

end Sys2Proof.Machine
end

