-- ==== Sys2Proof/Machine/Sequencer.lean ====
section
/-! DEFINITION. The sequencer (10_state.md R19): the decode of 30_encoding.md R95, the engine's next step at every
position, and the interleaving of the engine's steps with those of the NIC and the host (00_scope.md R16,
20_memory.md R76, R79). -/

namespace Sys2Proof.Machine

/-- Run the rule of a command, up to its first port action (30_encoding.md R95, R96). -/
def startInstr (l : Latch) (i : Instr) (s : State) : State :=
  match i with
  | .init _ => initStart l s
  | .txSend _ _ => sendStart l s
  | .txSendf _ _ _ => sendfStart l s
  | .txReclaim _ => reclaimStart l s
  | .rxPoll => pollStart l s
  | .linkWait _ => linkStart l s
  | .filterSet _ _ => filterStart l s
  | .intMask => maskStart l s
  | .rxEnable => startQueue l .rx .command s
  | .rxDisable => stopQueue l .rx .command s
  | .txqEnable => startQueue l .tx .command s
  | .txqDisable => stopQueue l .tx .command s

/-- The decode step (30_encoding.md R95, 60_exceptions.md R239): the sticky fault, the opcode and its reserved bits, the INIT
gate, then the command's own checks. -/
def decodeStep (l : Latch) (s : State) : State :=
  if s.eng.fault then s.finish .faulted
  else
    match decode l.word with
    | .reject _ => s.refuse
    | .command i => if i.needsInit && !s.eng.hwInit then s.refuse else startInstr l i s

/-- The engine's next step at position `p` of the latched command (10_state.md R19). -/
def engineStep (l : Latch) (p : Point) (s : State) : State :=
  match p with
  | .decode => decodeStep l s
  | .init q => initStep l q s
  | .tx q => txStep l q s
  | .reclaim q => reclaimStep l q s
  | .rx q => rxStep l q s
  | .link q => linkStep l q s
  | .filter q => filterStep l q s
  | .mask q => maskStep l q s
  | .queue q => queueStep l q s

/-- The positions at which the engine's next action is `Acquire()`. -/
def Point.isAcquire : Point → Bool
  | .tx (.sendAcquire _) => true
  | .tx (.fragAcquire _ _) => true
  | .filter (.acquire _ _) => true
  | _ => false

/-- The engine waits for the lock (20_memory.md R89, 60_exceptions.md R252). -/
def State.blocked (s : State) : Bool :=
  match s.eng.seq with
  | .idle => false
  | .running _ p => p.isAcquire && s.lockOther

/-- The engine's next step, if a command runs. -/
def State.engineTurn (s : State) : State :=
  match s.eng.seq with
  | .idle => s
  | .running l p => engineStep l p s

/-- One move while a command runs: the next input from outside, or the engine's next step. Between two engine steps
any number of inputs may stand (00_scope.md R16); `engine` is the engine's turn, `await` gives it every turn until it is
idle or waits for the lock, and with no input left only the engine moves. DESIGN CHOICE (notes/assumptions/2.md), safe. -/
def State.turn (s : State) : State :=
  match s.inputs with
  | [] => s.engineTurn
  | .engine :: is => (s.setInputs is).engineTurn
  | .await :: is => if s.blocked then s.setInputs is else s.engineTurn
  | i :: is => (s.setInputs is).outside i

/-- Nothing moves any more: no command runs, or the engine waits for the lock and no input is left. -/
def State.settled (s : State) : Bool :=
  match s.eng.seq with
  | .idle => true
  | .running _ _ => s.blocked && s.inputs.isEmpty

/-- At most `n` moves, until the machine is settled. -/
def State.run : Nat → State → State
  | 0, s => s
  | n + 1, s => if s.settled then s else State.run n s.turn

/-- An upper bound of the engine steps of one command (70_reset_and_hazards.md R273); the constant covers INIT's
4N + 12 steps and TX.RECLAIM's 4k + 2 for 16-bit counts. DEDUCED (notes/assumptions/6.md), safe. -/
def stepBound (c : Config) : Nat :=
  524288 + 2 * c.txPollCount + 2 * c.linkPollCount + 2 * c.phyProbeCount + 2 * c.downshiftPollCount +
    10 * c.queuePollCount

/-- Run the command that has started until it ends or waits for the lock. -/
def State.drive (s : State) : State := State.run (s.inputs.length + stepBound s.cfg) s

/-- The host writes `CMD` with word `w` and the command runs; while another command runs the write is an overrun
(10_state.md R29). An ill-formed configuration is refused (20_memory.md R65). -/
def issueWord (w : Word) (s : State) : Host.Outcome State Fault Refusal :=
  if configWf s.cfg then
    match s.eng.seq with
    | .idle => .next (s.startCmd w).drive
    | .running _ _ => .next s.overrun
  else .refused .illFormedConfig

end Sys2Proof.Machine
end

