-- ==== Sys2Proof/Machine/Commands.lean ====
section
/-! DEFINITION. The meaning of each command (30_encoding.md R96): the host writes its command word and the block runs it to
its end, interleaved with the inputs of the state. What each does at each step stands in the command's family file. -/

namespace Sys2Proof.Machine

/-- INIT (40_ring.md R133; Machine/Init.lean). -/
def execInit (n : Half) (s : State) : Host.Outcome State Fault Refusal := issueWord (encode (.init n)) s

/-- TX.SEND (41_transmit.md R145; Machine/Transmit.lean). -/
def execTxSend (block vle : Bool) (s : State) : Host.Outcome State Fault Refusal :=
  issueWord (encode (.txSend block vle)) s

/-- TX.SENDF (41_transmit.md R152; Machine/Transmit.lean). -/
def execTxSendf (block vle : Bool) (frags : Half) (s : State) : Host.Outcome State Fault Refusal :=
  issueWord (encode (.txSendf block vle frags)) s

/-- TX.RECLAIM (41_transmit.md R157; Machine/Reclaim.lean). -/
def execTxReclaim (max : Half) (s : State) : Host.Outcome State Fault Refusal :=
  issueWord (encode (.txReclaim max)) s

/-- RX.POLL (42_receive.md R167; Machine/Receive.lean). -/
def execRxPoll (s : State) : Host.Outcome State Fault Refusal := issueWord (encode .rxPoll) s

/-- LINK.WAIT (43_link.md R185; Machine/Link.lean). -/
def execLinkWait (cd : Bool) (s : State) : Host.Outcome State Fault Refusal := issueWord (encode (.linkWait cd)) s

/-- FILTER.SET (44_filter.md R198; Machine/Filter.lean). -/
def execFilterSet (mcl : Bool) (mask : Half) (s : State) : Host.Outcome State Fault Refusal :=
  issueWord (encode (.filterSet mcl mask)) s

/-- INT.MASK (45_lifecycle.md R222; Machine/Lifecycle.lean). -/
def execIntMask (s : State) : Host.Outcome State Fault Refusal := issueWord (encode .intMask) s

/-- RX.ENABLE (45_lifecycle.md R214; Machine/Handshake.lean). -/
def execRxEnable (s : State) : Host.Outcome State Fault Refusal := issueWord (encode .rxEnable) s

/-- RX.DISABLE (45_lifecycle.md R216; Machine/Handshake.lean). -/
def execRxDisable (s : State) : Host.Outcome State Fault Refusal := issueWord (encode .rxDisable) s

/-- TXQ.ENABLE (45_lifecycle.md R218; Machine/Handshake.lean). -/
def execTxqEnable (s : State) : Host.Outcome State Fault Refusal := issueWord (encode .txqEnable) s

/-- TXQ.DISABLE (45_lifecycle.md R220; Machine/Handshake.lean). -/
def execTxqDisable (s : State) : Host.Outcome State Fault Refusal := issueWord (encode .txqDisable) s

end Sys2Proof.Machine
end

