-- ==== Sys2Proof/Machine/Dispatch.lean ====
section
/-! DEFINITION. One arm per command (30_encoding.md R96). -/

namespace Sys2Proof.Machine

/-- The meaning of a command: the host writes its word to `CMD`. -/
def exec (i : Instr) (s : State) : Host.Outcome State Fault Refusal :=
  match i with
  | .init n => Sys2Proof.Machine.execInit n s
  | .txSend block vle => Sys2Proof.Machine.execTxSend block vle s
  | .txSendf block vle frags => Sys2Proof.Machine.execTxSendf block vle frags s
  | .txReclaim max => Sys2Proof.Machine.execTxReclaim max s
  | .rxPoll => Sys2Proof.Machine.execRxPoll s
  | .linkWait cd => Sys2Proof.Machine.execLinkWait cd s
  | .filterSet mcl mask => Sys2Proof.Machine.execFilterSet mcl mask s
  | .intMask => Sys2Proof.Machine.execIntMask s
  | .rxEnable => Sys2Proof.Machine.execRxEnable s
  | .rxDisable => Sys2Proof.Machine.execRxDisable s
  | .txqEnable => Sys2Proof.Machine.execTxqEnable s
  | .txqDisable => Sys2Proof.Machine.execTxqDisable s

end Sys2Proof.Machine
end

