-- ==== Sys2Proof/Machine/Step.lean ====
section
/-! DEFINITION. One step of the machine. An idle machine takes the next input: a host write of `CMD` runs that command to
its end (R95), any other input has its effect. A machine whose command waits (for the lock) goes on with it. DESIGN CHOICE
(notes/assumptions/1.md), safe. -/

namespace Sys2Proof.Machine

/-- The word of a host write of `CMD` (offset 0x00, 10_state.md R29). -/
def Input.cmdWord? : Input → Option Word
  | .host (.write 0 w) => some w
  | _ => none

/-- An idle machine takes the input `i`. -/
def idleStep (i : Input) (s : State) : Host.Outcome State Fault Refusal :=
  match i.cmdWord? with
  | none => .next (s.outside i)
  | some w =>
    match decode w with
    | .command c => exec c s
    | .reject _ => issueWord w s

/-- One step. An ill-formed configuration is refused (20_memory.md R65). -/
def step (s : State) : Host.Outcome State Fault Refusal :=
  if configWf s.cfg then
    match s.eng.seq with
    | .running _ _ => .next s.drive
    | .idle =>
      match s.inputs with
      | [] => .next s
      | i :: is => idleStep i (s.setInputs is)
  else .refused .illFormedConfig

/-- `s` with the command word `w` (of `nbits` bits, the rest 0) as the host's next write of `CMD`, and the block idle to
take it: the next step runs exactly this command. DESIGN CHOICE (notes/assumptions/5.md), safe. -/
def State.withFetchWord (s : State) (nbits w : Nat) : State :=
  { s with
    eng := { s.eng with seq := .idle }
    inputs := .host (.write 0 (tableWord nbits w)) :: s.inputs }

end Sys2Proof.Machine
end

