-- ==== Sys2Proof/Safety.lean ====
section
/-! DEFINITION. The terms in which claims are made: premises on a state, what stays the same, and the invariants of the
machine (10_state.md R45, R53; 60_exceptions.md R237; 44_filter.md R206). -/

namespace Sys2Proof.Machine

/-! ### Premises -/

/-- A command can be issued now and runs to its end with no step of another agent: well-formed configuration, idle, no
sticky fault, no input to come, the lock free. -/
structure State.Ready (s : State) : Prop where
  cfg : configWf s.cfg = true
  idle : s.eng.seq = .idle
  fault : s.eng.fault = false
  inputs : s.inputs = []
  lock : s.lockOther = false

/-- The latch a command word started in `s` gets (30_encoding.md R99). -/
def State.latch (s : State) (w : Word) : Latch :=
  { word := w, arg0 := s.regs.arg0, arg1 := s.regs.arg1, arg2 := s.regs.arg2 }

/-- The `j`-th answer the mapper gives from now on. -/
def State.answer (s : State) (j : Nat) : MapAnswer := s.mapper.getD j (Config.freeMapAnswer (s.mapCount + j))

/-- The operands of INIT are legal (40_ring.md R133). -/
structure State.InitLegal (s : State) (n : Half) : Prop where
  first : s.eng.hwInit = false
  size : 2 ≤ n.toNat ∧ n.toNat ≤ s.cfg.nMax
  buf : 1 ≤ s.regs.arg1.toNat ∧ s.regs.arg1.toNat ≤ s.cfg.rxBufMax
  pool : s.regs.arg0 ≠ 0
  range : s.regs.arg0.toNat + n.toNat * s.regs.arg1.toNat ≤ 2 ^ 64
  apart : overlapsRings s.cfg s.regs.arg0.toNat (n.toNat * s.regs.arg1.toNat) = false

/-- The low half of an operand register. -/
def lowHalf (w : Word) : Half := w.extractLsb' 0 16

/-- The high half of an operand register. -/
def highHalf (w : Word) : Half := w.extractLsb' 16 16

/-- A transmit may start: its VLAN operand is legal and the queue is open (41_transmit.md R145, R152, R161). -/
structure State.TxOpen (s : State) (vle : Bool) : Prop where
  tag : vle = true → highHalf s.regs.arg2 = 0
  queue : s.cfg.queueHandshake = true → s.eng.txqEnabled = true

/-- The operands of TX.SEND are legal (41_transmit.md R145, 30_encoding.md R100). -/
structure State.SendLegal (s : State) (vle : Bool) : Prop where
  len : highHalf s.regs.arg1 = 0 ∧ lowHalf s.regs.arg1 ≠ 0
  va : s.regs.arg0 ≠ 0
  range : s.regs.arg0.toNat + (lowHalf s.regs.arg1).toNat ≤ 2 ^ 64
  tx : s.TxOpen vle

/-- The operands of TX.SENDF, but for its list's entries, are legal (41_transmit.md R152, 30_encoding.md R100). -/
structure State.SendfLegal (s : State) (vle : Bool) (f : Nat) : Prop where
  count : 1 ≤ f ∧ f ≤ s.cfg.maxFrags ∧ f ≤ s.eng.n.toNat
  list : s.regs.arg0 ≠ 0
  range : s.regs.arg0.toNat + 16 * f ≤ 2 ^ 64
  tx : s.TxOpen vle

/-- The list of TX.SENDF at `ARG0` holds the legal fragments `fs` (41_transmit.md R153). -/
def State.ListHolds (s : State) (fs : List Frag) : Prop :=
  ∀ j f, fs[j]? = some f → fragOf (readDesc s.mem (entryAddr s.regs.arg0 16 j)) = some f

/-- The operands of TX.RECLAIM are legal (41_transmit.md R157, 30_encoding.md R100). -/
def State.ReclaimLegal (s : State) (max : Nat) : Prop :=
  0 < max → s.regs.arg0 ≠ 0 ∧ s.regs.arg0.toNat + 8 * max ≤ 2 ^ 64

/-- The operands of RX.POLL are legal and the queue is open (42_receive.md R167, R179). -/
structure State.PollLegal (s : State) : Prop where
  dst : 0 < s.regs.arg1.toNat → s.regs.arg0 ≠ 0 ∧ s.regs.arg0.toNat + s.regs.arg1.toNat ≤ 2 ^ 64
  queue : s.cfg.queueHandshake = true → s.eng.rxStarted = true

/-- The number of addresses FILTER.SET takes from `ARG1` (44_filter.md R203). -/
def State.listCount (s : State) : Nat := min s.regs.arg1.toNat s.cfg.maxMcast

/-- The operands of FILTER.SET are legal (44_filter.md R198, 30_encoding.md R100). Where no address is taken, `ARG0` may be 0: DEDUCED
(notes/assumptions/34.md), unsafe. -/
def State.FilterLegal (s : State) (mcl : Bool) : Prop :=
  mcl = true → 0 < s.listCount → s.regs.arg0 ≠ 0 ∧ s.regs.arg0.toNat + 6 * s.listCount ≤ 2 ^ 64

/-- The first `n` addresses of the multicast list at `ARG0` (30_encoding.md R111). -/
def State.listRead (s : State) (n : Nat) : List Mac :=
  (List.range n).map (fun k => macOfBytes (readBytes s.mem (s.regs.arg0 + BitVec.ofNat 64 (6 * k)) 6))

/-! ### What stays the same -/

/-- `t` has the configuration, inputs, lock requests, wire and host reads of `s`. -/
structure State.SameOuter (s t : State) : Prop where
  cfg : t.cfg = s.cfg
  inputs : t.inputs = s.inputs
  lockOther : t.lockOther = s.lockOther
  wire : t.wire = s.wire
  reads : t.reads = s.reads

/-- `t` has the mapper's state of `s`: no `Map` and no `Unmap` was made. -/
structure State.SameMapper (s t : State) : Prop where
  maps : t.maps = s.maps
  mapper : t.mapper = s.mapper
  mapCount : t.mapCount = s.mapCount

/-- Every byte of memory reads the same. -/
def State.SameBytes (s t : State) : Prop := ∀ b : Addr, readByte t.mem b = readByte s.mem b

/-- Every byte of memory outside the listed ranges (address, length) reads the same. -/
def State.SameBytesBut (s t : State) (ranges : List (Addr × Nat)) : Prop :=
  ∀ b : Addr, (∀ r ∈ ranges, ¬ inRange b r.1 r.2) → readByte t.mem b = readByte s.mem b

/-- The host registers after a command with status `c` that wrote no result: the operands stay, the results are 0. -/
def HostRegs.ended (r : HostRegs) (c : Status) : HostRegs :=
  { r with res0 := 0, res1 := 0, res2 := 0, res3 := 0, res4 := 0, code := c }

/-- An idle `s` after a command that did nothing but finish with status `c` (60_exceptions.md R232). -/
def State.endedWith (s : State) (c : Status) : State := { s with regs := s.regs.ended c }

/-- An access to a NIC register. -/
def PortAction.isAccess : PortAction → Bool
  | .regRead _ _ => true
  | .regWrite _ _ => true
  | _ => false

/-- A read of a NIC register or of the PHY. -/
def PortAction.isRead : PortAction → Bool
  | .regRead _ _ => true
  | .phyRead _ => true
  | _ => false

/-- A delay. -/
def PortAction.isDelay : PortAction → Bool
  | .delay _ => true
  | _ => false

/-- A read of memory. -/
def PortAction.isMemRead : PortAction → Bool
  | .memRead _ _ => true
  | _ => false

/-- What `n` reads with a delay between them leave in the record of port actions, newest first (00_scope.md R14). -/
def pollPorts (read : PortAction) (us : Nat) : Nat → List PortAction
  | 0 => []
  | 1 => [read]
  | n + 2 => read :: .delay us :: pollPorts read us (n + 1)

/-- The waits of `queueOn`, one step at a time, whoever called it (45_lifecycle.md R211, R212, R213): a read that shows the queue
enabled goes on to the unit, one that does not goes on to the delay and the next read while reads are left, and the last one ends a
queue command with `Timeout`. -/
def StartPolls (q : Queue) : Prop :=
  (∀ (l : Latch) (k : Nat) (r : Return) (s : State), s.regVal (queueReg q) &&& s.cfg.bQen ≠ 0 →
    engineStep l (.queue (.onPoll q k r)) s = { s with
      eng := { s.eng with seq := .running l (.queue (.enableRead q r)) }
      ports := .regRead (regOffset s.cfg (queueReg q)) (s.regVal (queueReg q)) :: s.ports }) ∧
  (∀ (l : Latch) (k : Nat) (r : Return) (s : State), s.regVal (queueReg q) &&& s.cfg.bQen = 0 → k + 1 < s.cfg.queuePollCount →
    engineStep l (.queue (.onPoll q k r)) s = { s with
      eng := { s.eng with seq := .running l (.queue (.onDelay q k r)) }
      ports := .regRead (regOffset s.cfg (queueReg q)) (s.regVal (queueReg q)) :: s.ports }) ∧
  (∀ (l : Latch) (k : Nat) (s : State), s.regVal (queueReg q) &&& s.cfg.bQen = 0 → ¬ k + 1 < s.cfg.queuePollCount →
    engineStep l (.queue (.onPoll q k .command)) s = { s with
      eng := { s.eng with seq := .idle }
      regs := { s.regs with code := .timeout }
      ports := .regRead (regOffset s.cfg (queueReg q)) (s.regVal (queueReg q)) :: s.ports }) ∧
  (∀ (l : Latch) (k : Nat) (r : Return) (s : State),
    engineStep l (.queue (.onDelay q k r)) s = { s with
      eng := { s.eng with seq := .running l (.queue (.onPoll q (k + 1) r)) }
      ports := .delay s.cfg.queuePollUs :: s.ports })

/-- The waits of `queueOff`, one step at a time (45_lifecycle.md R211, R212, R215): a read that shows the queue disabled ends a queue
command with `Success`, one that does not goes on to the delay and the next read while reads are left, and the last one ends a queue
command with `Timeout`. -/
def StopPolls (q : Queue) : Prop :=
  (∀ (l : Latch) (k : Nat) (s : State), s.regVal (queueReg q) &&& s.cfg.bQen = 0 →
    engineStep l (.queue (.offPoll q k .command)) s = { s with
      eng := { s.eng with seq := .idle }
      regs := { s.regs with code := .success }
      ports := .regRead (regOffset s.cfg (queueReg q)) (s.regVal (queueReg q)) :: s.ports }) ∧
  (∀ (l : Latch) (k : Nat) (r : Return) (s : State), s.regVal (queueReg q) &&& s.cfg.bQen ≠ 0 → k + 1 < s.cfg.queuePollCount →
    engineStep l (.queue (.offPoll q k r)) s = { s with
      eng := { s.eng with seq := .running l (.queue (.offDelay q k r)) }
      ports := .regRead (regOffset s.cfg (queueReg q)) (s.regVal (queueReg q)) :: s.ports }) ∧
  (∀ (l : Latch) (k : Nat) (s : State), s.regVal (queueReg q) &&& s.cfg.bQen ≠ 0 → ¬ k + 1 < s.cfg.queuePollCount →
    engineStep l (.queue (.offPoll q k .command)) s = { s with
      eng := { s.eng with seq := .idle }
      regs := { s.regs with code := .timeout }
      ports := .regRead (regOffset s.cfg (queueReg q)) (s.regVal (queueReg q)) :: s.ports }) ∧
  (∀ (l : Latch) (k : Nat) (r : Return) (s : State),
    engineStep l (.queue (.offDelay q k r)) s = { s with
      eng := { s.eng with seq := .running l (.queue (.offPoll q (k + 1) r)) }
      ports := .delay s.cfg.queuePollUs :: s.ports })

/-! ### The lock (10_state.md R45, 20_memory.md R89) -/

/-- Is the return inside `lockedRxChange` (44_filter.md R201)? -/
def Return.underLock : Return → Bool
  | .command => false
  | .paused _ _ => true
  | .resumed _ _ => true
  | .final _ => false

/-- Is the return that of `rxStop` to a locked change (44_filter.md R201)? -/
def Return.isPause : Return → Bool
  | .command => false
  | .paused _ _ => true
  | .resumed _ _ => false
  | .final _ => false

/-- Where a start or stop procedure returns to. -/
def QueuePoint.ret : QueuePoint → Return
  | .onRead _ r => r
  | .onWrite _ _ r => r
  | .onPoll _ _ r => r
  | .onDelay _ _ r => r
  | .enableRead _ r => r
  | .enableWrite _ _ r => r
  | .disableRead _ r => r
  | .disableWrite _ _ r => r
  | .offRead _ r => r
  | .offWrite _ _ r => r
  | .offPoll _ _ r => r
  | .offDelay _ _ r => r

/-- The positions between `Acquire()` and `Release()` (41_transmit.md R150, R155; 44_filter.md R201). -/
def Point.underLock : Point → Bool
  | .tx (.sendWrite _) => true
  | .tx (.fragWrite _ _) => true
  | .tx (.tail _) => true
  | .tx (.unlock _) => true
  | .filter (.ctrlRead _ _) => true
  | .filter (.ctrlWrite _ _ _) => true
  | .filter (.program _ _) => true
  | .filter (.release _ _) => true
  | .queue p => p.ret.underLock
  | _ => false

/-- The engine holds the lock exactly at the positions between its `Acquire()` and its `Release()`, and never together with
other software. -/
def State.LockOk (s : State) : Prop :=
  (match s.eng.seq with
    | .idle => s.eng.lockHeld = false
    | .running _ p => s.eng.lockHeld = p.underLock) ∧
  (s.eng.lockHeld = true → s.lockOther = false)

/-! ### Canonical form -/

/-- Memory, the binding tables and the multicast table are in canonical form. -/
structure State.Canonical (s : State) : Prop where
  mem : memWf s.mem = true
  tx : tableWf noTx s.eng.txTab = true
  rx : tableWf noRx s.eng.rxTab = true
  mc : tableWf (0 : Mac) s.eng.mcTable = true

/-! ### The ring-index invariants (10_state.md R53, 40_ring.md R139) -/

/-- The bound transmit slots are the `k` slots from the cleanup cursor on, and the write cursor stands after them. -/
def State.TxRun (s : State) (k : Nat) : Prop :=
  k ≤ s.eng.n.toNat ∧ s.eng.txW.toNat = (s.eng.txC.toNat + k) % s.eng.n.toNat ∧
    ∀ i, s.slotFree i = false ↔
      (i < s.eng.n.toNat ∧ (i + s.eng.n.toNat - s.eng.txC.toNat) % s.eng.n.toNat < k)

/-- The first `m` receive slots have a buffer. -/
def State.RxBound (s : State) (m : Nat) : Prop := ∀ i, i < m → (s.rxBinding i).da ≠ 0

/-- The rings are set up as INIT and the commands after it leave them (R53 a, b, c). -/
structure State.RingUp (s : State) : Prop where
  size : 2 ≤ s.eng.n.toNat ∧ s.eng.n.toNat ≤ s.cfg.nMax
  txW : s.eng.txW.toNat < s.eng.n.toNat
  txC : s.eng.txC.toNat < s.eng.n.toNat
  rxC : s.eng.rxC.toNat < s.eng.n.toNat
  run : ∃ k, s.TxRun k
  rx : s.RxBound s.eng.n.toNat

/-- The rings are not set up: sizes and cursors 0, no transmit slot bound (R53 a). -/
structure State.RingDown (s : State) : Prop where
  n : s.eng.n = 0
  b : s.eng.b = 0
  txW : s.eng.txW = 0
  txC : s.eng.txC = 0
  rxC : s.eng.rxC = 0
  free : ∀ i, s.slotFree i = true

/-- INIT's operands passed its checks (40_ring.md R133). -/
structure Latch.InitOk (c : Config) (l : Latch) : Prop where
  size : 2 ≤ l.imm ∧ l.imm ≤ c.nMax
  pool : l.arg0 ≠ 0
  buf : 1 ≤ l.arg1.toNat
  range : l.arg0.toNat + l.imm * l.arg1.toNat ≤ 2 ^ 64

/-- What holds of the rings at each position of a running command: the checks passed so far are still true. -/
def State.RingAt (s : State) (l : Latch) : Point → Prop
  | .init p => s.eng.hwInit = false ∧ l.InitOk s.cfg ∧
    (match p with
      | .txSlot i => i < l.imm
      | .mapBuf i => i < l.imm ∧ s.RxBound i
      | .rxSlot i => i < l.imm ∧ s.RxBound (i + 1)
      | .undo _ => True
      | .program k => k < 11 ∧ s.RxBound l.imm)
  | .tx p => s.eng.hwInit = true ∧
    (match p with
      | .sendMap => s.slotFree s.eng.txW.toNat = true ∧ l.arg0 ≠ 0
      | .sendAcquire da => s.slotFree s.eng.txW.toNat = true ∧ da ≠ 0
      | .sendWrite da => s.slotFree s.eng.txW.toNat = true ∧ da ≠ 0
      | .fragRead acc => acc.length < l.imm ∧ l.imm ≤ s.eng.n.toNat ∧ ∀ f, some f ∈ acc → f.va ≠ 0
      | .fragMap f todo done => done.length + 1 + todo.length ≤ s.eng.n.toNat ∧
        s.slotsFree (done.length + 1 + todo.length) = true ∧ f.va ≠ 0 ∧ (∀ g ∈ todo, g.va ≠ 0) ∧
        (∀ g ∈ done, g.da ≠ 0)
      | .fragAcquire f rest => 1 + rest.length ≤ s.eng.n.toNat ∧ s.slotsFree (1 + rest.length) = true ∧ f.da ≠ 0 ∧
        (∀ g ∈ rest, g.da ≠ 0)
      | .fragWrite f rest => 1 + rest.length ≤ s.eng.n.toNat ∧ s.slotsFree (1 + rest.length) = true ∧ f.da ≠ 0 ∧
        (∀ g ∈ rest, g.da ≠ 0)
      | _ => True)
  | .reclaim p => s.eng.hwInit = true ∧
    (match p with
      | .head => True
      | _ => s.slotFree s.eng.txC.toNat = false)
  | .rx _ => s.eng.hwInit = true
  | _ => True

/-- The ring-index invariants, at every step. -/
structure State.RingOk (s : State) : Prop where
  up : s.eng.hwInit = true → s.RingUp
  down : s.eng.hwInit = false → s.RingDown
  point : ∀ l p, s.eng.seq = .running l p → s.RingAt l p

/-! ### The tails (10_state.md R53 d, 42_receive.md R176, 41_transmit.md R150) -/

/-- The positions between a descriptor write and the tail write that hands it over. -/
def Point.beforeTail : Point → Bool
  | .tx (.fragWrite _ _) => true
  | .tx (.tail _) => true
  | _ => false

/-- The tail registers follow the cursors: the receive tail is the slot before the receive cursor, the transmit tail the write
cursor, except between a descriptor write and its tail write. -/
structure State.TailsOk (s : State) : Prop where
  rx : s.eng.hwInit = true →
    s.nic.rdt.toNat = (s.eng.rxC.toNat + s.eng.n.toNat - 1) % s.eng.n.toNat
  tx : s.eng.hwInit = true → (∀ l p, s.eng.seq = .running l p → p.beforeTail = false) →
    s.nic.tdt.toNat = s.eng.txW.toNat
  init : ∀ l k, s.eng.seq = .running l (.init (.program k)) → 6 ≤ k → s.nic.tdt = 0

/-! ### The filter (44_filter.md R203, R206; 10_state.md R42) -/

/-- Receive is paused around a locked change (44_filter.md R201): it is stopped while the change is made, and the procedure that
returns to the change is the stop of the receive queue. -/
def State.PausedAt (s : State) : Point → Prop
  | .filter (.ctrlRead _ _) => s.eng.rxStarted = false
  | .filter (.ctrlWrite _ _ _) => s.eng.rxStarted = false
  | .filter (.program _ _) => s.eng.rxStarted = false
  | .queue p =>
    p.ret.isPause = true →
      (match p with
        | .disableRead q _ => q = .rx
        | .disableWrite q _ _ => q = .rx
        | .offRead _ _ => s.eng.rxStarted = false
        | .offWrite _ _ _ => s.eng.rxStarted = false
        | .offPoll _ _ _ => s.eng.rxStarted = false
        | .offDelay _ _ _ => s.eng.rxStarted = false
        | _ => False)
  | _ => True

/-- The tracked mask is 0 or has UNICAST, the multicast lists are at most `P_MAX_MCAST` long, and receive is paused around a
locked change. -/
structure State.FilterOk (s : State) : Prop where
  mask : s.eng.filterMask = 0 ∨ hasBit s.eng.filterMask maskUnicast = true
  count : s.eng.mcCount.toNat ≤ s.cfg.maxMcast
  nic : s.nic.mcast.length ≤ s.cfg.maxMcast
  list : ∀ l acc late, s.eng.seq = .running l (.filter (.listRead acc late)) → acc.length < mcastCount s.cfg l
  pause : ∀ l p, s.eng.seq = .running l p → s.PausedAt p

/-! ### The sticky fault (60_exceptions.md R236, R237) -/

/-- The fault bit and the cause agree. -/
def State.FaultOk (s : State) : Prop := s.eng.fault = true ↔ s.eng.faultCause ≠ .none

end Sys2Proof.Machine
end

