-- ==== Sys2Proof/Certificates/Slice0/Obligations.lean ====
section
/-! DEFINITION. The statements for the provers. Each docstring names the rules of spec/ it formalises. Premises: `Ready` is a block
that can take a command while no other agent moves; statements about every step hold for every schedule of inputs. -/

section

open Sys2Proof Sys2Proof.Machine

/-! ### Encoding and decoding -/

/-- Decoding an encoded well-formed command gives it back, with every field at every value (R94, R96, R98). -/
def Obligations.DecodeOfEncode : Prop :=
  ∀ i : Instr, i.wf = true → decode (encode i) = .command i

/-- A word that decodes is the encoding of a well-formed command: each command has one word (R94, R96, R123). -/
def Obligations.EncodeOfDecode : Prop :=
  ∀ (w : Word) (i : Instr), decode w = .command i → i.wf = true ∧ encode i = w

/-- A few command words, written out from R94 and R96. -/
def Obligations.WordsDecodeAsTheTableSays : Prop :=
  decode 0x00080001#32 = .command (.init 8) ∧
  decode 0x00000310#32 = .command (.txSend true true) ∧
  decode 0x00030011#32 = .command (.txSendf false false 3) ∧
  decode 0x00040012#32 = .command (.txReclaim 4) ∧
  decode 0x00000020#32 = .command .rxPoll ∧
  decode 0x00000130#32 = .command (.linkWait true) ∧
  decode 0x00070140#32 = .command (.filterSet true 7) ∧
  decode 0x00000041#32 = .command .intMask ∧
  decode 0x00000050#32 = .command .rxEnable ∧
  decode 0x00000053#32 = .command .txqDisable

/-- R97: every opcode that is no row of R96 is refused and does nothing else. -/
def Obligations.ReservedOpcodeRefused : Prop :=
  ∀ (s : State) (w : Word), s.Ready →
    ((opcField w).toNat = 0 ∨ (0x02 ≤ (opcField w).toNat ∧ (opcField w).toNat ≤ 0x0F) ∨
      (0x13 ≤ (opcField w).toNat ∧ (opcField w).toNat ≤ 0x1F) ∨
      (0x21 ≤ (opcField w).toNat ∧ (opcField w).toNat ≤ 0x2F) ∨
      (0x31 ≤ (opcField w).toNat ∧ (opcField w).toNat ≤ 0x3F) ∨
      (0x42 ≤ (opcField w).toNat ∧ (opcField w).toNat ≤ 0x4F) ∨
      (0x54 ≤ (opcField w).toNat ∧ (opcField w).toNat ≤ 0xFF)) →
    issueWord w s = .next (s.endedWith .refused)

/-- R98: a set bit of `mustZero(opc)` is refused; so is, before INIT, every command that needs INIT; the three others run. -/
def Obligations.FieldConstraintsPerOpcode : Prop :=
  (∀ (s : State) (w m : Word), s.Ready →
    (opcField w, m) ∈ ([(0x01, 0x0000FF00), (0x10, 0xFFFFFC00), (0x11, 0x0000FC00), (0x12, 0x0000FF00),
      (0x20, 0xFFFFFF00), (0x30, 0xFFFFFE00), (0x40, 0xFFE0FE00), (0x41, 0xFFFFFF00), (0x50, 0xFFFFFF00),
      (0x51, 0xFFFFFF00), (0x52, 0xFFFFFF00), (0x53, 0xFFFFFF00)] : List (BitVec 8 × Word)) →
    w &&& m ≠ 0 → issueWord w s = .next (s.endedWith .refused)) ∧
  (∀ (s : State) (i : Instr), s.Ready → s.eng.hwInit = false → (∀ n, i ≠ .init n) → (∀ cd, i ≠ .linkWait cd) →
    i ≠ .intMask → exec i s = .next (s.endedWith .refused)) ∧
  (∀ (s : State) (l : Latch) (i : Instr), s.eng.fault = false → decode l.word = .command i →
    ((∃ n, i = .init n) ∨ (∃ cd, i = .linkWait cd) ∨ i = .intMask) → decodeStep l s = startInstr l i s)

/-! ### One step -/

/-- A step of an idle machine runs the command whose word the host writes to `CMD`, with that input used up; a word that is no
command is issued all the same; any other input has its effect; a running command goes on; and `withFetchWord` makes the next
step run the word it is given (R29, R95, R56). That a step is a whole command is the model's choice (notes/assumptions/1.md); so is
what `withFetchWord` sets, the host's write at the head of the inputs and the sequencer at idle (notes/assumptions/5.md). -/
def Obligations.StepRunsTheDecodedCommand : Prop :=
  (∀ (s : State) (w : Word) (is : List Input) (i : Instr), configWf s.cfg = true → s.eng.seq = .idle →
    s.inputs = .host (.write 0 w) :: is → decode w = .command i → step s = exec i (s.setInputs is)) ∧
  (∀ (s : State) (w : Word) (is : List Input) (why : DecodeError), configWf s.cfg = true → s.eng.seq = .idle →
    s.inputs = .host (.write 0 w) :: is → decode w = .reject why → step s = issueWord w (s.setInputs is)) ∧
  (∀ (s : State) (i : Input) (is : List Input), configWf s.cfg = true → s.eng.seq = .idle → s.inputs = i :: is →
    (∀ w, i ≠ .host (.write 0 w)) → step s = .next ((s.setInputs is).outside i)) ∧
  (∀ s : State, configWf s.cfg = true → s.eng.seq ≠ .idle → step s = .next s.drive) ∧
  (∀ (s : State) (nbits w : Nat) (i : Instr), configWf s.cfg = true → decodeTableWord nbits w = some i →
    step (s.withFetchWord nbits w) = exec i (s.setSeq .idle))

/-- R65, R66: a configuration whose ring bases are not multiples of 128, whose register offsets are not multiples of 4, or whose
ring regions meet or do not lie below 2^64 is refused by every step and every command. That a register offset which is no multiple of 4
makes a configuration ill-formed is the model's reading (notes/assumptions/9.md), and so are the clauses for a ring size or a count of
`CAPS` that its register cannot hold and for a bit mask that is not one bit. -/
def Obligations.IllFormedConfigurationRefused : Prop :=
  ∀ (s : State) (i : Instr),
    (s.cfg.txRingBase.toNat % 128 ≠ 0 ∨ s.cfg.rxRingBase.toNat % 128 ≠ 0 ∨ (∃ r, regOffset s.cfg r % 4 ≠ 0) ∨
      (∃ a, s.cfg.txRingBase.toNat ≤ a ∧ a < s.cfg.txRingBase.toNat + 16 * s.cfg.nMax ∧
        s.cfg.rxRingBase.toNat ≤ a ∧ a < s.cfg.rxRingBase.toNat + 16 * s.cfg.nMax) ∨
      2 ^ 64 < s.cfg.txRingBase.toNat + 16 * s.cfg.nMax ∨ 2 ^ 64 < s.cfg.rxRingBase.toNat + 16 * s.cfg.nMax ∨
      0xFFFF < s.cfg.nMax ∨ 0xFF < s.cfg.maxFrags ∨ 0xFF < s.cfg.maxMcast ∨
      (∃ w ∈ [s.cfg.bLu, s.cfg.bRxEn, s.cfg.bUpe, s.cfg.bMpe, s.cfg.bBam, s.cfg.bTxEn, s.cfg.bQen],
        w = 0 ∨ w &&& (w - 1) ≠ 0)) →
    step s = .refused .illFormedConfig ∧ exec i s = .refused .illFormedConfig

/-- Whatever the inputs, a command ends or waits for the lock with nothing left to release it (R240, R252, R273, R276; the bound of the
engine steps is the model's, notes/assumptions/6.md). -/
def Obligations.EveryCommandEndsOrWaitsForTheLock : Prop :=
  ∀ (s : State) (i : Instr), configWf s.cfg = true → s.eng.seq = .idle →
    ∃ t, exec i s = .next t ∧ t.settled = true

/-! ### Invariants that every step keeps, under every schedule -/

/-- Memory and the tables (R58, R40 to R42) stay in canonical form. The form is the model's choice (notes/assumptions/22.md), and so is the
byte that memory does not list (notes/assumptions/3.md). -/
def Obligations.CanonicalFormKept : Prop :=
  ∀ s t : State, s.Canonical → step s = .next t → t.Canonical

/-- R45, R89: the engine holds the lock exactly between `Acquire()` and `Release()`, never at the end of a command, and never together
with other software. -/
def Obligations.LockHeldExactlyAroundItsSequences : Prop :=
  ∀ s t : State, s.LockOk → step s = .next t → t.LockOk

/-- R53 (a) to (c), R139, R163: the ring-index invariants. -/
def Obligations.RingIndexesKept : Prop :=
  ∀ s t : State, s.Canonical → s.RingOk → step s = .next t → t.RingOk

/-- R53 (d), R138, R176: the receive tail stays one slot behind the receive cursor; the transmit tail follows the write cursor. -/
def Obligations.TailsFollowTheCursors : Prop :=
  ∀ s t : State, s.Canonical → s.RingOk → s.TailsOk → step s = .next t → t.TailsOk

/-- R42, R201, R203, R206: the tracked mask is 0 or has UNICAST, no multicast list is longer than `P_MAX_MCAST`, and receive is stopped
while a change of the receive-control bits or the multicast list is made. That a reset of the NIC by the host leaves no longer list is the
model's choice (notes/assumptions/41.md). -/
def Obligations.FilterStateKept : Prop :=
  ∀ s t : State, s.FilterOk → step s = .next t → t.FilterOk

/-- R233, R236, R242: without a reset input the fault, its cause and the overrun bit stay once set. -/
def Obligations.FaultAndOverrunAreSticky : Prop :=
  ∀ s t : State, Input.reset ∉ s.inputs → s.FaultOk → step s = .next t →
    t.FaultOk ∧ (s.eng.fault = true → t.eng.fault = true) ∧
      (s.eng.fault = true → s.eng.seq = .idle → t.eng.faultCause = s.eng.faultCause) ∧
      (s.eng.ovr = true → t.eng.ovr = true)

/-- R7, R35: no step changes a parameter, so `CAPS` and the MAC registers are constant. -/
def Obligations.ParametersConstant : Prop :=
  ∀ s t : State, step s = .next t →
    t.cfg = s.cfg ∧ ∀ off, off = 0x50 ∨ off = 0x54 ∨ off = 0x58 → t.hostRead off = s.hostRead off

/-- The invariants hold after reset, for every configuration; `State.reset` is that of REF-A. That the NIC's multicast list is short there
rests on the model's choice of the NIC's state at reset (notes/assumptions/4.md), the canonical form of memory on the choice of what it lists
(notes/assumptions/3.md, notes/assumptions/22.md), and that `State.reset` has REF-A is a choice (notes/assumptions/8.md). -/
def Obligations.InvariantsHoldAtReset : Prop :=
  (∀ c : Config, (State.resetWith c).Canonical ∧ (State.resetWith c).LockOk ∧ (State.resetWith c).RingOk ∧
    (State.resetWith c).TailsOk ∧ (State.resetWith c).FilterOk ∧ (State.resetWith c).FaultOk) ∧
  State.reset = State.resetWith Config.refA ∧ configWf State.reset.cfg = true

/-! ### Reset, the host register file, command start -/

/-- R256, R257, R259, R54: reset at any step puts the engine record and the host registers at their reset values, releases the lock,
abandons the command, and touches nothing else. -/
def Obligations.ResetInput : Prop :=
  (∀ (s : State) (is : List Input), s.inputs = .reset :: is →
    s.turn = { s with eng := Engine.reset, regs := HostRegs.reset, inputs := is } ∧ s.turn.settled = true ∧
    (configWf s.cfg = true → s.eng.seq = .idle → step s = .next s.turn)) ∧
  Engine.reset =
    { seq := .idle
      n := 0
      b := 0
      hwInit := false
      txW := 0
      txC := 0
      txTab := []
      rxC := 0
      rxTab := []
      filterMask := 0
      mcTable := []
      mcCount := 0
      rxStarted := false
      txqEnabled := false
      intMask := 0
      rxTrunc := 0
      link := .linkDown
      lockHeld := false
      fault := false
      faultCause := .none
      ovr := false } ∧
  HostRegs.reset =
    { arg0 := 0
      arg1 := 0
      arg2 := 0
      res0 := 0
      res1 := 0
      res2 := 0
      res3 := 0
      res4 := 0
      code := .success } ∧
  (∀ c off, off ≠ 0x50 → off ≠ 0x54 → off ≠ 0x58 → (State.resetWith c).hostRead off = 0)

/-- R28, R29, R30, R33, R34, R35: what the host reads at each offset; and the numbers of the status codes (R104), link states (R107), fault
causes (R237) and descriptor formats (R35). -/
def Obligations.HostReads : Prop :=
  (∀ s : State,
    s.hostRead 0x00 = 0 ∧
    (s.hostRead 0x04).extractLsb' 0 4 = s.regs.code.bits ∧
    (s.hostRead 0x04).getLsbD 4 = decide (s.eng.seq ≠ .idle) ∧
    (s.hostRead 0x04).getLsbD 5 = s.eng.fault ∧
    (s.hostRead 0x04).getLsbD 6 = s.eng.ovr ∧
    (s.hostRead 0x04).getLsbD 7 = false ∧
    (s.hostRead 0x04).extractLsb' 8 3 = s.eng.link.bits ∧
    (s.hostRead 0x04).getLsbD 11 = s.eng.hwInit ∧
    (s.hostRead 0x04).getLsbD 12 = s.eng.rxStarted ∧
    (s.hostRead 0x04).getLsbD 13 = s.eng.txqEnabled ∧
    (s.hostRead 0x04).extractLsb' 14 2 = 0 ∧
    (s.hostRead 0x04).extractLsb' 16 4 = s.eng.faultCause.bits ∧
    (s.hostRead 0x04).extractLsb' 20 12 = 0 ∧
    s.hostRead 0x0C ++ s.hostRead 0x08 = s.regs.arg0 ∧
    s.hostRead 0x10 = s.regs.arg1 ∧
    s.hostRead 0x14 = s.regs.arg2 ∧
    s.hostRead 0x1C ++ s.hostRead 0x18 = s.regs.res0 ∧
    s.hostRead 0x24 ++ s.hostRead 0x20 = s.regs.res1 ∧
    s.hostRead 0x28 = s.regs.res2 ∧
    s.hostRead 0x2C = s.regs.res3 ∧
    s.hostRead 0x30 = s.regs.res4 ∧
    (s.hostRead 0x34).extractLsb' 0 16 = s.eng.txW ∧
    (s.hostRead 0x34).extractLsb' 16 16 = s.eng.txC ∧
    s.hostRead 0x38 = s.eng.rxC.setWidth 32 ∧
    (s.hostRead 0x3C).extractLsb' 0 5 = s.eng.filterMask ∧
    (s.hostRead 0x3C).extractLsb' 5 3 = 0 ∧
    (s.hostRead 0x3C).extractLsb' 8 8 = s.eng.mcCount ∧
    (s.hostRead 0x3C).extractLsb' 16 16 = 0 ∧
    s.hostRead 0x40 = s.eng.intMask ∧
    s.hostRead 0x44 = s.eng.rxTrunc ∧
    s.hostRead 0x48 = s.eng.n.setWidth 32 ∧
    s.hostRead 0x4C = s.eng.b ∧
    (s.hostRead 0x50).getLsbD 0 = s.cfg.queueHandshake ∧
    (s.hostRead 0x50).getLsbD 1 = s.cfg.rxTestEop ∧
    (s.hostRead 0x50).getLsbD 2 = s.cfg.phyDownshift ∧
    (s.hostRead 0x50).extractLsb' 3 2 = formatBits s.cfg.descFormat ∧
    (s.hostRead 0x50).extractLsb' 5 3 = 0 ∧
    (s.hostRead 0x50).extractLsb' 8 8 = BitVec.ofNat 8 s.cfg.maxFrags ∧
    (s.hostRead 0x50).extractLsb' 16 8 = BitVec.ofNat 8 s.cfg.maxMcast ∧
    (s.hostRead 0x50).extractLsb' 24 8 = 0 ∧
    (s.hostRead 0x58 ++ s.hostRead 0x54).extractLsb' 0 48 = s.cfg.adapterMac ∧
    (s.hostRead 0x58).extractLsb' 16 16 = 0 ∧
    (∀ off, 0x58 < off ∨ off % 4 ≠ 0 → s.hostRead off = 0)) ∧
  (Status.success.bits = 0 ∧ Status.busy.bits = 1 ∧ Status.noData.bits = 2 ∧ Status.deviceFailure.bits = 3 ∧
    Status.timeout.bits = 4 ∧ Status.initFailure.bits = 5 ∧ Status.refused.bits = 6 ∧ Status.faulted.bits = 7) ∧
  (LinkState.linkDown.bits = 0 ∧ LinkState.negotiating.bits = 1 ∧ LinkState.linkUp.bits = 2 ∧
    LinkState.downshiftRetry.bits = 3 ∧ LinkState.failed.bits = 4) ∧
  (FaultCause.none.bits = 0 ∧ FaultCause.headOutOfRange.bits = 1 ∧ FaultCause.headOutsideWindow.bits = 2) ∧
  (formatBits .legacy = 0 ∧ formatBits .advanced = 1)

/-- R28, R31: the host writes the operand registers and nothing else; every other write but one of `CMD` is ignored. -/
def Obligations.HostWrites : Prop :=
  ∀ (s : State) (v : Word),
    (s.hostWrite 0x08 v).hostRead 0x08 = v ∧ (s.hostWrite 0x08 v).hostRead 0x0C = s.hostRead 0x0C ∧
    (s.hostWrite 0x0C v).hostRead 0x0C = v ∧ (s.hostWrite 0x0C v).hostRead 0x08 = s.hostRead 0x08 ∧
    s.hostWrite 0x08 v = { s with regs := { s.regs with arg0 := (s.hostWrite 0x08 v).regs.arg0 } } ∧
    s.hostWrite 0x0C v = { s with regs := { s.regs with arg0 := (s.hostWrite 0x0C v).regs.arg0 } } ∧
    s.hostWrite 0x10 v = { s with regs := { s.regs with arg1 := v } } ∧
    s.hostWrite 0x14 v = { s with regs := { s.regs with arg2 := v } } ∧
    (∀ off, off ≠ 0x00 → off ≠ 0x08 → off ≠ 0x0C → off ≠ 0x10 → off ≠ 0x14 → s.hostWrite off v = s)

/-- R95 (its first sentence), R99: a host write of `CMD` while idle latches the word and the operands and clears the results, and a
later host write does not change the latch of the running command. -/
def Obligations.CommandStartLatchesTheOperands : Prop :=
  (∀ (s : State) (w : Word), s.eng.seq = .idle →
    s.hostWrite 0x00 w = { s with
      eng := { s.eng with seq := .running (s.latch w) .decode }
      regs := { s.regs with res0 := 0, res1 := 0, res2 := 0, res3 := 0, res4 := 0 } } ∧
    (s.hostWrite 0x00 w).hostRead 0x04 = s.hostRead 0x04 ||| 0x10) ∧
  (∀ (s : State) (l : Latch) (p : Point) (off : Nat) (v : Word), s.eng.seq = .running l p →
    (s.hostWrite off v).eng.seq = .running l p)

/-- R233: a host write of `CMD` while a command runs is dropped and sets the sticky overrun bit; nothing else changes. -/
def Obligations.CommandOverrun : Prop :=
  ∀ (s : State) (w : Word), s.eng.seq ≠ .idle →
    s.hostWrite 0x00 w = { s with eng := { s.eng with ovr := true } } ∧
    (configWf s.cfg = true → ∀ i, exec i s = .next { s with eng := { s.eng with ovr := true } })

/-- R236, R238: with the sticky fault set every command, and every other word, finishes `Faulted` at its decode with no port action. -/
def Obligations.FaultedBlockRunsNothing : Prop :=
  ∀ (s : State) (w : Word), configWf s.cfg = true → s.eng.seq = .idle → s.inputs = [] → s.eng.fault = true →
    issueWord w s = .next (s.endedWith .faulted) ∧ ∀ i, exec i s = .next (s.endedWith .faulted)

/-! ### INIT -/

/-- R133 to R135, R137, R138, R142: INIT with legal operands and a mapper that answers `Ok` finishes `Success`; the rings, the binding
tables, the NIC's registers and the cursors are set, no done bit is set in either format, and nothing else changes. Its port actions, in
order: the transmit descriptors, then each receive buffer's `Map` and descriptor, then the register writes of R137, tails last of each ring
(R77). -/
def Obligations.InitSetsUpTheRings : Prop :=
  ∀ (s : State) (n : Half), s.Ready → s.Canonical → s.InitLegal n → (∀ j, j < n.toNat → s.answer j ≠ .fail) →
    ∃ t, exec (.init n) s = .next t ∧ s.SameOuter t ∧
      t.regs = s.regs.ended .success ∧
      t.eng = { s.eng with
        n := n
        b := s.regs.arg1
        hwInit := true
        txW := 0
        txC := 0
        rxC := 0
        intMask := 0
        txTab := t.eng.txTab
        rxTab := t.eng.rxTab } ∧
      (∀ i, t.txBinding i = if i < n.toNat then noTx else s.txBinding i) ∧
      (∀ i, n.toNat ≤ i → t.rxBinding i = s.rxBinding i) ∧
      (∀ i, i < n.toNat → ∃ d, s.answer i = .ok d ∧
        (t.rxBinding i).va = s.regs.arg0 + BitVec.ofNat 64 (i * s.regs.arg1.toNat) ∧
        (t.rxBinding i).da = (if d = 0 then (t.rxBinding i).va else d) ∧ (t.rxBinding i).da ≠ 0 ∧
        readDesc t.mem (s.cfg.txRingBase + BitVec.ofNat 64 (16 * i)) = 0 ∧
        (decodeTx s.cfg (readDesc t.mem (s.cfg.txRingBase + BitVec.ofNat 64 (16 * i)))).sta.getLsbD 0 = false ∧
        decodeRx s.cfg (readDesc t.mem (s.cfg.rxRingBase + BitVec.ofNat 64 (16 * i))) =
          { addr := (t.rxBinding i).da, length := 0, csum := 0, sta := 0, errors := 0, special := 0 }) ∧
      s.SameBytesBut t [(s.cfg.txRingBase, 16 * n.toNat), (s.cfg.rxRingBase, 16 * n.toNat)] ∧
      t.nic = { s.nic with
        ims := 0
        tdbal := s.cfg.txRingBase.extractLsb' 0 32
        tdbah := s.cfg.txRingBase.extractLsb' 32 32
        tdlen := BitVec.ofNat 32 (16 * n.toNat)
        tdh := 0
        tdt := 0
        rdbal := s.cfg.rxRingBase.extractLsb' 0 32
        rdbah := s.cfg.rxRingBase.extractLsb' 32 32
        rdlen := BitVec.ofNat 32 (16 * n.toNat)
        rdh := 0
        rdt := BitVec.ofNat 32 (n.toNat - 1) } ∧
      t.mapper = s.mapper.drop n.toNat ∧ t.mapCount = s.mapCount + n.toNat ∧
      t.maps = ((List.range n.toNat).map (fun i =>
        ({ da := (t.rxBinding i).da, va := (t.rxBinding i).va, len := s.regs.arg1.toNat } : Mapping))).reverse ++
          s.maps ∧
      t.ports =
        [.regWrite s.cfg.oRdt (BitVec.ofNat 32 (n.toNat - 1)), .regWrite s.cfg.oRdh 0,
          .regWrite s.cfg.oRdlen (BitVec.ofNat 32 (16 * n.toNat)),
          .regWrite s.cfg.oRdbah (s.cfg.rxRingBase.extractLsb' 32 32), .regWrite s.cfg.oRdbal (s.cfg.rxRingBase.extractLsb' 0 32),
          .regWrite s.cfg.oTdt 0, .regWrite s.cfg.oTdh 0, .regWrite s.cfg.oTdlen (BitVec.ofNat 32 (16 * n.toNat)),
          .regWrite s.cfg.oTdbah (s.cfg.txRingBase.extractLsb' 32 32), .regWrite s.cfg.oTdbal (s.cfg.txRingBase.extractLsb' 0 32),
          .regWrite s.cfg.oImc 0xFFFFFFFF] ++
        ((List.range n.toNat).flatMap (fun i =>
          [.map (s.regs.arg0 + BitVec.ofNat 64 (i * s.regs.arg1.toNat)) s.regs.arg1.toNat (s.answer i),
            .memWrite (rxSlotAddr s.cfg i) (readBytes t.mem (rxSlotAddr s.cfg i) 16)])).reverse ++
        ((List.range n.toNat).map (fun i => .memWrite (txSlotAddr s.cfg i) (List.replicate 16 0))).reverse ++ s.ports

/-- R136: a mapping failure at buffer `i` undoes the earlier mappings, last first, and finishes `InitFailure`; no NIC register is written and the
block is still not initialized. -/
def Obligations.InitMappingFailureIsUndone : Prop :=
  ∀ (s : State) (n : Half) (i : Nat), s.Ready → s.Canonical → s.InitLegal n → i < n.toNat → s.answer i = .fail →
    (∀ j, j < i → s.answer j ≠ .fail) →
    ∃ t, exec (.init n) s = .next t ∧ s.SameOuter t ∧
      t.regs = s.regs.ended .initFailure ∧ t.nic = s.nic ∧ t.maps = s.maps ∧
      t.eng = { s.eng with
        txTab := t.eng.txTab
        rxTab := t.eng.rxTab } ∧
      (∀ j, t.txBinding j = if j < n.toNat then noTx else s.txBinding j) ∧
      (∀ j, t.rxBinding j = if j < i then noRx else s.rxBinding j) ∧
      (∀ j, j < n.toNat → readDesc t.mem (s.cfg.txRingBase + BitVec.ofNat 64 (16 * j)) = 0) ∧
      (∀ j d, j < i → s.answer j = .ok d →
        (decodeRx s.cfg (readDesc t.mem (s.cfg.rxRingBase + BitVec.ofNat 64 (16 * j)))).addr =
          (if d = 0 then s.regs.arg0 + BitVec.ofNat 64 (j * s.regs.arg1.toNat) else d)) ∧
      s.SameBytesBut t [(s.cfg.txRingBase, 16 * n.toNat), (s.cfg.rxRingBase, 16 * i)] ∧
      t.mapper = s.mapper.drop (i + 1) ∧ t.mapCount = s.mapCount + i + 1 ∧
      t.ports =
        (List.range i).map (fun j =>
          .unmap (dev (s.regs.arg0 + BitVec.ofNat 64 (j * s.regs.arg1.toNat)) (s.answer j)) s.regs.arg1.toNat) ++
        .map (s.regs.arg0 + BitVec.ofNat 64 (i * s.regs.arg1.toNat)) s.regs.arg1.toNat .fail ::
        (((List.range i).flatMap (fun j =>
          [.map (s.regs.arg0 + BitVec.ofNat 64 (j * s.regs.arg1.toNat)) s.regs.arg1.toNat (s.answer j),
            .memWrite (rxSlotAddr s.cfg j) (readBytes t.mem (rxSlotAddr s.cfg j) 16)])).reverse ++
        ((List.range n.toNat).map (fun j => .memWrite (txSlotAddr s.cfg j) (List.replicate 16 0))).reverse ++ s.ports)

/-- R133, R232: INIT with an operand out of its range, or a second INIT, is refused and does nothing else. -/
def Obligations.InitRefused : Prop :=
  ∀ (s : State) (n : Half), s.Ready → ¬ s.InitLegal n → exec (.init n) s = .next (s.endedWith .refused)

/-! ### TX.SEND and TX.SENDF -/

/-- R145, R147 to R151: TX.SEND with legal operands and a free slot writes one descriptor, binds the slot, advances the write cursor and
hands the frame over, in the order of R150; a non-blocking one finishes `Success`, a blocking one whose descriptor the NIC does not
complete finishes `DeviceFailure` after `P_TX_POLL_COUNT` reads. The wait step by step, for any schedule: it is on the slot just
written; a read that finds the done bit ends the command with `Success`, one that does not goes on to the delay and the next read, and
the last one ends it with `DeviceFailure`. -/
def Obligations.TxSendHandsTheFrameOver : Prop :=
  (∀ (s : State) (block vle : Bool), s.Ready → s.Canonical → s.eng.hwInit = true → s.SendLegal vle →
    s.slotFree s.eng.txW.toNat = true →
    ∃ (t : State) (da : Addr) (waits : List PortAction), exec (.txSend block vle) s = .next t ∧ s.SameOuter t ∧
      (∀ d, s.answer 0 = .ok d → d ≠ 0 → da = d) ∧ (s.answer 0 = .ok 0 ∨ s.answer 0 = .fail → da = s.regs.arg0) ∧
      t.regs = s.regs.ended (if block then .deviceFailure else .success) ∧
      t.eng = { s.eng with
        txTab := t.eng.txTab
        txW := BitVec.ofNat 16 ((s.eng.txW.toNat + 1) % s.eng.n.toNat)
        lockHeld := false } ∧
      t.txBinding s.eng.txW.toNat = { bind := da, va := s.regs.arg0, len := lowHalf s.regs.arg1 } ∧
      (∀ i, i ≠ s.eng.txW.toNat → t.txBinding i = s.txBinding i) ∧
      t.nic = { s.nic with tdt := t.eng.txW.setWidth 32 } ∧
      t.txRecAt s.eng.txW.toNat =
        { addr := da
          length := lowHalf s.regs.arg1
          cso := 0
          cmd := if vle then 0x4B else 0x0B
          sta := 0
          css := 0
          special := if vle then lowHalf s.regs.arg2 else 0 } ∧
      s.SameBytesBut t [(txSlotAddr s.cfg s.eng.txW.toNat, 16)] ∧
      t.maps = { da := da, va := s.regs.arg0, len := (lowHalf s.regs.arg1).toNat } :: s.maps ∧
      t.mapper = s.mapper.drop 1 ∧ t.mapCount = s.mapCount + 1 ∧
      t.ports = waits ++ .release :: .regWrite s.cfg.oTdt (t.eng.txW.setWidth 32) ::
        .memWrite (txSlotAddr s.cfg s.eng.txW.toNat) (readBytes t.mem (txSlotAddr s.cfg s.eng.txW.toNat) 16) ::
        .acquire :: .map s.regs.arg0 (lowHalf s.regs.arg1).toNat (s.answer 0) :: s.ports ∧
      waits.countP (fun a => a.isMemRead) = (if block then s.cfg.txPollCount else 0) ∧
      waits.countP (fun a => a.isDelay) = (if block then s.cfg.txPollCount - 1 else 0) ∧
      waits.all (fun a => a.isMemRead || a.isDelay) = true) ∧
  (∀ (l : Latch) (da : Addr) (s : State),
    (engineStep l (.tx (.sendWrite da)) s).eng.seq = .running l (.tx (.tail s.eng.txW))) ∧
  (∀ (l : Latch) (slot : Half) (s : State),
    (engineStep l (.tx (.tail slot)) s).eng.seq = .running l (.tx (.unlock slot)) ∧
    (l.f0 = true → 0 < s.cfg.txPollCount →
      (engineStep l (.tx (.unlock slot)) s).eng.seq = .running l (.tx (.waitRead slot 0)))) ∧
  (∀ (l : Latch) (slot : Half) (k : Nat) (s : State),
    engineStep l (.tx (.waitRead slot k)) s = { s with
      eng := { s.eng with
        seq := if (s.txRecAt slot.toNat).sta.getLsbD 0 = false ∧ k + 1 < s.cfg.txPollCount
          then .running l (.tx (.waitDelay slot k)) else .idle }
      regs := { s.regs with
        code := if (s.txRecAt slot.toNat).sta.getLsbD 0 then .success
          else if k + 1 < s.cfg.txPollCount then s.regs.code else .deviceFailure }
      ports := .memRead (txSlotAddr s.cfg slot.toNat) 16 :: s.ports } ∧
    engineStep l (.tx (.waitDelay slot k)) s = { s with
      eng := { s.eng with seq := .running l (.tx (.waitRead slot (k + 1))) }
      ports := .delay s.cfg.txPollUs :: s.ports })

/-- R100, R145, R146, R161, R239: TX.SEND with illegal operands or a closed queue is refused; with legal ones and a bound slot it finishes
`Busy`; in both cases nothing else changes. -/
def Obligations.TxSendRefusedOrBusy : Prop :=
  ∀ (s : State) (block vle : Bool), s.Ready → s.eng.hwInit = true →
    (¬ s.SendLegal vle → exec (.txSend block vle) s = .next (s.endedWith .refused)) ∧
    (s.SendLegal vle → s.slotFree s.eng.txW.toNat = false → exec (.txSend block vle) s = .next (s.endedWith .busy))

/-- R149, R152, R154 to R156: TX.SENDF with a legal list and free slots writes one descriptor per fragment, EOP on the last one only, binds
the slots, advances the write cursor by the fragment count and writes the tail once. Its wait, for any schedule, is on the slot of the
last fragment alone, and a read that finds that slot's done bit ends the command with `Success`. -/
def Obligations.TxSendfHandsTheFragmentsOver : Prop :=
  (∀ (s : State) (block vle : Bool) (f : Half) (fs : List Frag), s.Ready → s.Canonical → s.RingOk → s.eng.hwInit = true →
    s.SendfLegal vle f.toNat → fs.length = f.toNat → s.ListHolds fs → s.slotsFree f.toNat = true →
    ∃ t, exec (.txSendf block vle f) s = .next t ∧ s.SameOuter t ∧
      t.regs = s.regs.ended (if block then .deviceFailure else .success) ∧
      t.eng = { s.eng with
        txTab := t.eng.txTab
        txW := BitVec.ofNat 16 ((s.eng.txW.toNat + f.toNat) % s.eng.n.toNat)
        lockHeld := false } ∧
      t.nic = { s.nic with tdt := t.eng.txW.setWidth 32 } ∧
      (∀ j g, fs[j]? = some g →
        t.txBinding (slotFrom s.eng.txW s.eng.n j) = { bind := dev g.va (s.answer j), va := g.va, len := g.len } ∧
        t.txRecAt (slotFrom s.eng.txW s.eng.n j) =
          { addr := dev g.va (s.answer j)
            length := g.len
            cso := 0
            cmd := (if j + 1 = f.toNat then 0x0B else 0x0A) ||| (if vle then 0x40 else 0)
            sta := 0
            css := 0
            special := if vle then lowHalf s.regs.arg2 else 0 }) ∧
      (∀ i, (∀ j, j < f.toNat → i ≠ slotFrom s.eng.txW s.eng.n j) → t.txBinding i = s.txBinding i) ∧
      s.SameBytesBut t ((List.range f.toNat).map (fun j => (txSlotAddr s.cfg (slotFrom s.eng.txW s.eng.n j), 16))) ∧
      t.mapper = s.mapper.drop f.toNat ∧ t.mapCount = s.mapCount + f.toNat ∧
      t.maps = (fs.zipIdx.map (fun p =>
        ({ da := dev p.1.va (s.answer p.2), va := p.1.va, len := p.1.len.toNat } : Mapping))).reverse ++ s.maps ∧
      (∃ new : List PortAction, t.ports = new ++ s.ports ∧ new.countP (fun a => a.isAccess) = 1)) ∧
  (∀ (l : Latch) (f : MappedFrag) (rest : List MappedFrag) (s : State),
    (engineStep l (.tx (.fragWrite f rest)) s).eng.seq = .running l
      (match rest with
        | [] => .tx (.tail s.eng.txW)
        | g :: gs => .tx (.fragWrite g gs))) ∧
  (∀ (l : Latch) (slot : Half) (s : State),
    (engineStep l (.tx (.tail slot)) s).eng.seq = .running l (.tx (.unlock slot)) ∧
    (l.f0 = true → 0 < s.cfg.txPollCount →
      (engineStep l (.tx (.unlock slot)) s).eng.seq = .running l (.tx (.waitRead slot 0)))) ∧
  (∀ (l : Latch) (slot : Half) (k : Nat) (s : State), (s.txRecAt slot.toNat).sta.getLsbD 0 = true →
    engineStep l (.tx (.waitRead slot k)) s = { s with
      eng := { s.eng with seq := .idle }
      regs := { s.regs with code := .success }
      ports := .memRead (txSlotAddr s.cfg slot.toNat) 16 :: s.ports })

/-- R100, R146, R152, R153, R161: TX.SENDF is refused before any action on illegal operands, refused after the f reads of its list alone on
an illegal list entry, and `Busy` after those reads alone when one of its slots is bound. That all entries are read before an illegal one
ends the command is R153's word against the loop of R152 (notes/assumptions/25.md). -/
def Obligations.TxSendfRefusedOrBusy : Prop :=
  ∀ (s : State) (block vle : Bool) (f : Half), s.Ready → s.eng.hwInit = true →
    (¬ s.SendfLegal vle f.toNat → exec (.txSendf block vle f) s = .next (s.endedWith .refused)) ∧
    (s.SendfLegal vle f.toNat →
      (∃ j, j < f.toNat ∧ fragOf (readDesc s.mem (entryAddr s.regs.arg0 16 j)) = none) →
      ∃ new, exec (.txSendf block vle f) s = .next { s.endedWith .refused with ports := new ++ s.ports } ∧
        new.all (fun a => a.isMemRead) = true ∧ new.length = f.toNat) ∧
    (∀ fs : List Frag, s.SendfLegal vle f.toNat → fs.length = f.toNat → s.ListHolds fs → s.slotsFree f.toNat = false →
      ∃ new, exec (.txSendf block vle f) s = .next { s.endedWith .busy with ports := new ++ s.ports } ∧
        new.all (fun a => a.isMemRead) = true ∧ new.length = f.toNat)

/-- R153: what makes a fragment list entry illegal, and what a legal one says (R110, little-endian fields). -/
def Obligations.FragmentEntryCheck : Prop :=
  ∀ e : Desc,
    (fragOf e = none ↔ (e.extractLsb' 0 64).toNat = 0 ∨ (e.extractLsb' 64 32).toNat = 0 ∨
      0xFFFF < (e.extractLsb' 64 32).toNat ∨ 2 ^ 64 < (e.extractLsb' 0 64).toNat + (e.extractLsb' 64 32).toNat) ∧
    (∀ f, fragOf e = some f → f.va = e.extractLsb' 0 64 ∧ f.len.toNat = (e.extractLsb' 64 32).toNat)

/-- R89, R252, R25: `Acquire()` waits, with nothing changed, while other software holds the lock, and else takes it as its one action. A
TX.SEND that finds the lock held waits there after its `Map`, and a step changes nothing until an input comes. -/
def Obligations.AcquireWaitsForTheLock : Prop :=
  (∀ (l : Latch) (p : Point) (s : State), p.isAcquire = true →
    (s.lockOther = true → engineStep l p s = s) ∧
    (s.lockOther = false → (engineStep l p s).eng.lockHeld = true ∧ (engineStep l p s).ports = .acquire :: s.ports ∧
      (engineStep l p s).nic = s.nic ∧ (engineStep l p s).mem = s.mem ∧ (engineStep l p s).regs = s.regs)) ∧
  (∀ (s : State) (block vle : Bool), configWf s.cfg = true → s.eng.seq = .idle → s.eng.fault = false → s.inputs = [] →
    s.lockOther = true → s.eng.hwInit = true → s.SendLegal vle → s.slotFree s.eng.txW.toNat = true →
    ∃ (t : State) (da : Addr), exec (.txSend block vle) s = .next t ∧
      t.eng = { s.eng with seq := .running (s.latch (encode (.txSend block vle))) (.tx (.sendAcquire da)) } ∧
      t.ports = .map s.regs.arg0 (lowHalf s.regs.arg1).toNat (s.answer 0) :: s.ports ∧
      t.nic = s.nic ∧ t.mem = s.mem ∧ step t = .next t)

/-! ### TX.RECLAIM -/

/-- R157, R100: TX.RECLAIM with max = 0 makes no action and finishes `Success`; with an illegal output array it is refused; an empty ring is
left alone after the head is read. -/
def Obligations.TxReclaimOfNothing : Prop :=
  ∀ (s : State) (max : Half), s.Ready → s.eng.hwInit = true →
    (max = 0 → exec (.txReclaim max) s = .next (s.endedWith .success)) ∧
    (¬ s.ReclaimLegal max.toNat → exec (.txReclaim max) s = .next (s.endedWith .refused)) ∧
    (0 < max.toNat → s.ReclaimLegal max.toNat → s.RingOk → s.slotFree s.eng.txC.toNat = true → s.nic.tdh.toNat = s.eng.txC.toNat →
      exec (.txReclaim max) s =
        .next { s.endedWith .success with ports := .regRead s.cfg.oTdh s.nic.tdh :: s.ports })

/-- R158, R236, R237: a head out of range, or in range but outside the span from the cleanup cursor to the write cursor, raises the sticky
fault with its cause before any slot is touched. -/
def Obligations.CorruptHeadRaisesTheFault : Prop :=
  ∀ (s : State) (max : Half), s.Ready → s.RingOk → s.eng.hwInit = true → 0 < max.toNat → s.ReclaimLegal max.toNat →
    (s.eng.n.toNat ≤ s.nic.tdh.toNat →
      exec (.txReclaim max) s = .next { s.endedWith .faulted with
        eng := { s.eng with fault := true, faultCause := .headOutOfRange }
        ports := .regRead s.cfg.oTdh s.nic.tdh :: s.ports }) ∧
    (s.nic.tdh.toNat < s.eng.n.toNat →
      (¬ ∃ j, j ≤ (s.eng.txW.toNat + s.eng.n.toNat - s.eng.txC.toNat) % s.eng.n.toNat ∧
        s.nic.tdh.toNat = (s.eng.txC.toNat + j) % s.eng.n.toNat) →
      (s.eng.txW = s.eng.txC → s.slotFree s.eng.txW.toNat = true) →
      exec (.txReclaim max) s = .next { s.endedWith .faulted with
        eng := { s.eng with fault := true, faultCause := .headOutsideWindow }
        ports := .regRead s.cfg.oTdh s.nic.tdh :: s.ports })

/-- R157 to R160, R112, R141: TX.RECLAIM with a legal head reclaims the `k` completed slots from the cleanup cursor on and stops at the
first of R159's conditions: their addresses stand in the output array, they are free with done bit 0, and nothing else changes. Its port
actions, in order: the head, then for each slot the descriptor read and R160's `Unmap`, output write and status write, then the read of
the slot it stops at where that is a bound one. Which mapping `Unmap` drops is the model's choice (notes/assumptions/11.md). -/
def Obligations.TxReclaimWalksTheCompletedSlots : Prop :=
  ∀ (s : State) (max : Half), s.Ready → s.Canonical → s.RingOk → s.eng.hwInit = true → 0 < max.toNat →
    s.ReclaimLegal max.toNat → overlapsRings s.cfg s.regs.arg0.toNat (8 * max.toNat) = false →
    s.nic.tdh.toNat < s.eng.n.toNat → s.headInSpan s.nic.tdh.toNat = true →
    ∃ (t : State) (k : Nat), exec (.txReclaim max) s = .next t ∧ s.SameOuter t ∧ k ≤ max.toNat ∧
      t.regs = { s.regs.ended .success with res2 := BitVec.ofNat 32 k } ∧
      t.eng = { s.eng with
        txTab := t.eng.txTab
        txC := BitVec.ofNat 16 ((s.eng.txC.toNat + k) % s.eng.n.toNat) } ∧
      t.nic = s.nic ∧ t.mapper = s.mapper ∧ t.mapCount = s.mapCount ∧
      (∀ j, 0 < j → j < k → slotFrom s.eng.txC s.eng.n j ≠ s.nic.tdh.toNat) ∧
      (∀ j, j < k → s.slotFree (slotFrom s.eng.txC s.eng.n j) = false ∧
        txDone (s.txRecAt (slotFrom s.eng.txC s.eng.n j)) = true ∧
        t.txBinding (slotFrom s.eng.txC s.eng.n j) = noTx ∧
        t.txRecAt (slotFrom s.eng.txC s.eng.n j) =
          { s.txRecAt (slotFrom s.eng.txC s.eng.n j) with
            sta := (s.txRecAt (slotFrom s.eng.txC s.eng.n j)).sta &&& ~~~0x01 } ∧
        leNat (readBytes t.mem (s.regs.arg0 + BitVec.ofNat 64 (8 * j)) 8) =
          (s.txBinding (slotFrom s.eng.txC s.eng.n j)).va.toNat) ∧
      (∀ i, (∀ j, j < k → i ≠ slotFrom s.eng.txC s.eng.n j) → t.txBinding i = s.txBinding i) ∧
      (k = max.toNat ∨ (0 < k ∧ slotFrom s.eng.txC s.eng.n k = s.nic.tdh.toNat) ∨
        t.slotFree (slotFrom s.eng.txC s.eng.n k) = true ∨
        txDone (t.txRecAt (slotFrom s.eng.txC s.eng.n k)) = false) ∧
      t.maps = (List.range k).foldl (fun ms j =>
        dropMapping (s.txBinding (slotFrom s.eng.txC s.eng.n j)).bind
          (s.txBinding (slotFrom s.eng.txC s.eng.n j)).len.toNat ms) s.maps ∧
      s.SameBytesBut t ((s.regs.arg0, 8 * k) ::
        (List.range k).map (fun j => (txSlotAddr s.cfg (slotFrom s.eng.txC s.eng.n j), 16))) ∧
      t.ports =
        (if k = max.toNat ∨ (0 < k ∧ slotFrom s.eng.txC s.eng.n k = s.nic.tdh.toNat) ∨
            t.slotFree (slotFrom s.eng.txC s.eng.n k) = true then []
          else [.memRead (txSlotAddr s.cfg (slotFrom s.eng.txC s.eng.n k)) 16]) ++
        ((List.range k).flatMap (fun j =>
          let i := slotFrom s.eng.txC s.eng.n j
          let w := staWrite s.cfg i (s.txRecAt i) ((s.txRecAt i).sta &&& ~~~0x01)
          [.memRead (txSlotAddr s.cfg i) 16, .unmap (s.txBinding i).bind (s.txBinding i).len.toNat,
            .memWrite (s.regs.arg0 + BitVec.ofNat 64 (8 * j)) (leBytes 8 (s.txBinding i).va.toNat),
            .memWrite w.1 w.2])).reverse ++
        .regRead s.cfg.oTdh s.nic.tdh :: s.ports

/-! ### RX.POLL -/

/-- R100, R167, R168, R179: RX.POLL with an illegal destination or a closed queue is refused; with no completed descriptor it finishes `NoData`
after one read; nothing else changes. -/
def Obligations.RxPollRefusedOrEmpty : Prop :=
  ∀ s : State, s.Ready → s.eng.hwInit = true →
    (¬ s.PollLegal → exec .rxPoll s = .next (s.endedWith .refused)) ∧
    (s.PollLegal →
      ((s.rxRecAt s.eng.rxC.toNat).sta.getLsbD 0 = false) →
      (s.cfg.rxTestEop = true → (s.rxRecAt s.eng.rxC.toNat).sta.getLsbD 1 = false) →
      exec .rxPoll s = .next { s.endedWith .noData with
        ports := .memRead (rxSlotAddr s.cfg s.eng.rxC.toNat) 16 :: s.ports })

/-- R169, R174: a completed descriptor with length 0 or an error is dropped: the slot is re-armed, the tail written, the cursor advanced,
and nothing else changes. -/
def Obligations.RxPollDropsBadFrames : Prop :=
  ∀ s : State, s.Ready → s.Canonical → s.eng.hwInit = true → s.PollLegal →
    rxDone s.cfg (s.rxRecAt s.eng.rxC.toNat) = true →
    ((s.rxRecAt s.eng.rxC.toNat).length = 0 ∨ (s.rxRecAt s.eng.rxC.toNat).errors ≠ 0) →
    ∃ t, exec .rxPoll s = .next t ∧ s.SameOuter t ∧ s.SameMapper t ∧
      t.regs = s.regs.ended .noData ∧
      t.eng = { s.eng with rxC := BitVec.ofNat 16 ((s.eng.rxC.toNat + 1) % s.eng.n.toNat) } ∧
      t.nic = { s.nic with rdt := s.eng.rxC.setWidth 32 } ∧
      t.rxRecAt s.eng.rxC.toNat =
        { addr := (s.rxBinding s.eng.rxC.toNat).da, length := 0, csum := 0, sta := 0, errors := 0, special := 0 } ∧
      s.SameBytesBut t [(rxSlotAddr s.cfg s.eng.rxC.toNat, 16)]

/-- R170 to R174, R180, R109, R64: an accepted frame of reported length L is delivered: `n = min(L, C, E.B)` bytes copied, the header's fields
and the frame type in the result registers, a truncation counted once when n < L, the slot re-armed. The header bytes are those of
the receive buffer, 0 from `min(L, E.B)` on. -/
def Obligations.RxPollDeliversTheFrame : Prop :=
  ∀ (s : State) (d : RxRec) (b : RxBinding) (n : Nat) (h : Nat → Byte) (m : Mac), s.Ready → s.Canonical → s.eng.hwInit = true →
    s.PollLegal → d = s.rxRecAt s.eng.rxC.toNat → b = s.rxBinding s.eng.rxC.toNat →
    rxDone s.cfg d = true → d.length ≠ 0 → d.errors = 0 →
    (∀ a, inRange a s.regs.arg0 s.regs.arg1.toNat →
      ¬ inRange a (rxSlotAddr s.cfg s.eng.rxC.toNat) 16 ∧ ¬ inRange a b.va s.eng.b.toNat) →
    n = min (min d.length.toNat s.eng.b.toNat) s.regs.arg1.toNat →
    (∀ k, h k = if k < min d.length.toNat s.eng.b.toNat then readByte s.mem (b.va + BitVec.ofNat 64 k) else 0) →
    m = h 0 ++ h 1 ++ h 2 ++ h 3 ++ h 4 ++ h 5 →
    ∃ t, exec .rxPoll s = .next t ∧ s.SameOuter t ∧ s.SameMapper t ∧
      t.regs = { s.regs with
        res0 := m.setWidth 64
        res1 := (h 6 ++ h 7 ++ h 8 ++ h 9 ++ h 10 ++ h 11).setWidth 64
        res2 := BitVec.ofNat 32 n
        res3 := d.length.setWidth 32
        res4 := h 12 ++ h 13 ++ (if m = s.cfg.adapterMac then 1#16 else if m = 0xFFFFFFFFFFFF then 2
          else if m.getLsbD 40 then 3 else 4)
        code := .success } ∧
      t.eng = { s.eng with
        rxC := BitVec.ofNat 16 ((s.eng.rxC.toNat + 1) % s.eng.n.toNat)
        rxTrunc := if n < d.length.toNat then s.eng.rxTrunc + 1 else s.eng.rxTrunc } ∧
      t.nic = { s.nic with rdt := s.eng.rxC.setWidth 32 } ∧
      readBytes t.mem s.regs.arg0 n = readBytes s.mem b.va n ∧
      t.rxRecAt s.eng.rxC.toNat = { addr := b.da, length := 0, csum := 0, sta := 0, errors := 0, special := 0 } ∧
      s.SameBytesBut t [(s.regs.arg0, n), (rxSlotAddr s.cfg s.eng.rxC.toNat, 16)]

/-! ### LINK.WAIT -/

/-- R193: LINK.WAIT with CD = 0 finishes `Success` with `RES2 = 1` at once, with no action and `E.link` unchanged. -/
def Obligations.LinkWaitWithoutCableDetect : Prop :=
  ∀ s : State, s.Ready →
    exec (.linkWait false) s = .next { s with regs := { s.regs.ended .success with res2 := 1 } }

/-- R185, R187, R189: LINK.WAIT with CD = 1 and a link that is up finishes `Success` after one read, and the settle delay where there is
one. R188, R191, for any schedule: so it does at every later read of the first window and of DownshiftRetry that sees the link up; a
read that does not goes on to the delay and the next read while reads are left. -/
def Obligations.LinkWaitSeesTheLinkUp : Prop :=
  (∀ s : State, s.Ready → 0 < s.cfg.linkPollCount → s.nic.status &&& s.cfg.bLu ≠ 0 →
    exec (.linkWait true) s = .next { s with
      eng := { s.eng with link := .linkUp }
      regs := { s.regs.ended .success with res2 := 1 }
      ports := (if 0 < s.cfg.linkSettleUs then [PortAction.delay s.cfg.linkSettleUs] else []) ++
        .regRead s.cfg.oStatus s.nic.status :: s.ports }) ∧
  (∀ (l : Latch) (p : LinkPoint) (k : Nat) (s : State), p = .read k ∨ p = .retryRead k → s.nic.status &&& s.cfg.bLu ≠ 0 →
    (0 < s.cfg.linkSettleUs → engineStep l (.link p) s = { s with
      eng := { s.eng with seq := .running l (.link .settle) }
      ports := .regRead s.cfg.oStatus s.nic.status :: s.ports }) ∧
    (s.cfg.linkSettleUs = 0 → engineStep l (.link p) s = { s with
      eng := { s.eng with seq := .idle, link := .linkUp }
      regs := { s.regs with res2 := 1, code := .success }
      ports := .regRead s.cfg.oStatus s.nic.status :: s.ports })) ∧
  (∀ (l : Latch) (s : State), engineStep l (.link .settle) s = { s with
    eng := { s.eng with seq := .idle, link := .linkUp }
    regs := { s.regs with res2 := 1, code := .success }
    ports := .delay s.cfg.linkSettleUs :: s.ports }) ∧
  (∀ (l : Latch) (k : Nat) (s : State), s.nic.status &&& s.cfg.bLu = 0 →
    (k + 1 < s.cfg.linkPollCount → engineStep l (.link (.read k)) s = { s with
      eng := { s.eng with seq := .running l (.link (.delay k)) }
      ports := .regRead s.cfg.oStatus s.nic.status :: s.ports }) ∧
    (k + 1 < s.cfg.downshiftPollCount → engineStep l (.link (.retryRead k)) s = { s with
      eng := { s.eng with seq := .running l (.link (.retryDelay (k + 1))) }
      ports := .regRead s.cfg.oStatus s.nic.status :: s.ports })) ∧
  (∀ (l : Latch) (k : Nat) (s : State),
    engineStep l (.link (.delay k)) s = { s with
      eng := { s.eng with seq := .running l (.link (.read (k + 1))) }
      ports := .delay s.cfg.linkPollUs :: s.ports } ∧
    engineStep l (.link (.retryDelay k)) s = { s with
      eng := { s.eng with seq := .running l (.link (.retryRead k)) }
      ports := .delay s.cfg.downshiftPollUs :: s.ports })

/-- R188, R190 to R192, R194: LINK.WAIT with CD = 1 and a link that stays down finishes `Timeout` with `RES2 = 0` in `Failed`, after exactly
the reads and delays of its phases: the whole first window; with downshift recovery the PHY probe, whole or up to the read that shows
the indicator; after that read every round of DownshiftRetry. It reads only `O_STATUS` and the PHY, and changes nothing else (R196). -/
def Obligations.LinkWaitGivesUp : Prop :=
  ∀ s : State, s.Ready → s.nic.status &&& s.cfg.bLu = 0 →
    ∃ new : List PortAction,
      exec (.linkWait true) s = .next { s with
        eng := { s.eng with link := .failed }
        regs := s.regs.ended .timeout
        ports := new ++ s.ports } ∧
      new.countP (fun a => a.isRead) ≤
        s.cfg.linkPollCount + s.cfg.phyProbeCount + s.cfg.downshiftPollCount ∧
      new.countP (fun a => a.isDelay) ≤
        (s.cfg.linkPollCount - 1) + (s.cfg.phyProbeCount - 1) + s.cfg.downshiftPollCount ∧
      (∀ a ∈ new, a = .regRead s.cfg.oStatus s.nic.status ∨ a = .phyRead s.nic.phy ∨ a.isDelay = true) ∧
      new =
        (if s.cfg.phyDownshift = true ∧ s.nic.phy &&& s.cfg.phyMask ≠ 0 ∧ 0 < s.cfg.phyProbeCount then
          (List.replicate s.cfg.downshiftPollCount
            [.regRead s.cfg.oStatus s.nic.status, .delay s.cfg.downshiftPollUs]).flatten else []) ++
        (pollPorts (.phyRead s.nic.phy) s.cfg.phyProbeUs
          (if s.cfg.phyDownshift = false then 0
            else if s.nic.phy &&& s.cfg.phyMask ≠ 0 then min 1 s.cfg.phyProbeCount
            else s.cfg.phyProbeCount)) ++
        pollPorts (.regRead s.cfg.oStatus s.nic.status) s.cfg.linkPollUs s.cfg.linkPollCount ∧
      new.countP (fun a => a == .phyRead s.nic.phy) =
        (if s.cfg.phyDownshift = false then 0
          else if s.nic.phy &&& s.cfg.phyMask ≠ 0 then min 1 s.cfg.phyProbeCount
          else s.cfg.phyProbeCount) ∧
      (s.cfg.phyDownshift = true → s.nic.phy &&& s.cfg.phyMask ≠ 0 → 0 < s.cfg.phyProbeCount →
        new.countP (fun a => a == .regRead s.cfg.oStatus s.nic.status) =
          s.cfg.linkPollCount + s.cfg.downshiftPollCount) ∧
      ((s.cfg.phyDownshift = false ∨ s.nic.phy &&& s.cfg.phyMask = 0 ∨ s.cfg.phyProbeCount = 0) →
        new.countP (fun a => a == .regRead s.cfg.oStatus s.nic.status) = s.cfg.linkPollCount)

/-! ### FILTER.SET -/

/-- R100, R198: FILTER.SET with an illegal list is refused and does nothing else. -/
def Obligations.FilterSetRefused : Prop :=
  ∀ (s : State) (mcl : Bool) (mask : Half), s.Ready → s.eng.hwInit = true → mask.toNat < 32 → ¬ s.FilterLegal mcl →
    exec (.filterSet mcl mask) s = .next (s.endedWith .refused)

/-- R198 to R207, R213, R215: what FILTER.SET leaves, on both families: the tracked mask, the multicast table, the list the NIC holds, the
receive-control word, the receive queue's control word, whether receive is started, and `Success` or `Timeout`. `up` and `down` say
whether the queue handshake, where there is one, acknowledges a start and a stop. Memory, the rings and the mapper are untouched (R209).
R201, for any schedule: `lockedRxChange` takes the lock, stops receive first when it is started, makes the change, and restarts receive
before the release when it had stopped it. The model's reading: with `P_MAX_MCAST` = 0 a list at address 0 is legal
(notes/assumptions/34.md). -/
def Obligations.FilterSetEffect : Prop :=
  (∀ (s : State) (mcl : Bool) (mask : Half) (m : BitVec 5) (list old : List Mac) (change ctrl prog pause up down : Bool),
    s.Ready → s.Canonical → s.eng.hwInit = true → s.eng.lockHeld = false → mask.toNat < 32 → s.FilterLegal mcl →
    m = mask.extractLsb' 0 5 → list = s.listRead s.listCount →
    old = (List.range s.eng.mcCount.toNat).map (tableGet 0 s.eng.mcTable) →
    change = (mcl && list != old) → ctrl = ((m ^^^ s.eng.filterMask) &&& 0x1A != 0) →
    prog = (change || (m ^^^ s.eng.filterMask) &&& 0x04 != 0) → pause = (s.eng.rxStarted && (ctrl || prog)) →
    up = (!s.cfg.queueHandshake || (decide (0 < s.cfg.queuePollCount) && s.nic.rxqOn)) →
    down = (!s.cfg.queueHandshake || (decide (0 < s.cfg.queuePollCount) && !s.nic.rxqOn)) →
    ∃ t, exec (.filterSet mcl mask) s = .next t ∧ s.SameOuter t ∧ s.SameMapper t ∧ t.mem = s.mem ∧
      t.regs = s.regs.ended
        (if s.cfg.queueHandshake = true ∧
            (pause = true ∨ (m ≠ 0 ∧ s.eng.rxStarted = false ∧ up = false) ∨ (m = 0 ∧ s.eng.rxStarted = true ∧ down = false))
          then .timeout else .success) ∧
      t.eng = { s.eng with
        filterMask := if m = 0 then 0 else m ||| 0x01
        mcTable := t.eng.mcTable
        mcCount := if mcl then BitVec.ofNat 8 s.listCount else s.eng.mcCount
        rxStarted := decide (m ≠ 0) && ((s.eng.rxStarted && !pause) || up) } ∧
      (∀ k, tableGet 0 t.eng.mcTable k =
        if mcl = true ∧ k < s.listCount then list.getD k 0 else tableGet 0 s.eng.mcTable k) ∧
      t.nic = { s.nic with
        rxCtrl := t.nic.rxCtrl
        rxqCtl := if s.cfg.queueHandshake = false then s.nic.rxqCtl
          else if m ≠ 0 then (if s.eng.rxStarted && !pause then s.nic.rxqCtl else s.nic.rxqCtl ||| s.cfg.bQen)
          else if s.eng.rxStarted = false then s.nic.rxqCtl
          else if pause && !up then s.nic.rxqCtl ||| s.cfg.bQen
          else s.nic.rxqCtl &&& ~~~s.cfg.bQen
        mcast := if prog then (if m.getLsbD 2 then (if mcl then list else old) else []) else s.nic.mcast } ∧
      t.nic.rxCtrl &&& ~~~s.cfg.bRxEn =
        (if ctrl then (s.nic.rxCtrl &&& ~~~(s.cfg.bUpe ||| s.cfg.bMpe ||| s.cfg.bBam)) |||
            (if m.getLsbD 3 then s.cfg.bUpe else 0) ||| (if m.getLsbD 3 || m.getLsbD 4 then s.cfg.bMpe else 0) |||
            (if m.getLsbD 1 then s.cfg.bBam else 0)
          else s.nic.rxCtrl) &&& ~~~s.cfg.bRxEn ∧
      (m ≠ 0 → (s.eng.rxStarted && !pause) = false → up = true → t.nic.rxCtrl &&& s.cfg.bRxEn ≠ 0) ∧
      (m = 0 → s.eng.rxStarted = true → (pause && !up) = false → t.nic.rxCtrl &&& s.cfg.bRxEn = 0) ∧
      (s.cfg.bRxEn &&& (s.cfg.bUpe ||| s.cfg.bMpe ||| s.cfg.bBam) = 0 →
        t.nic.rxCtrl &&& s.cfg.bRxEn =
          (if m ≠ 0 then
            (if s.eng.rxStarted && !pause then s.nic.rxCtrl &&& s.cfg.bRxEn
              else if up then s.cfg.bRxEn
              else if s.eng.rxStarted then 0
              else s.nic.rxCtrl &&& s.cfg.bRxEn)
          else if s.eng.rxStarted then 0
          else s.nic.rxCtrl &&& s.cfg.bRxEn))) ∧
  (∀ (l : Latch) (x : Change) (late : Bool) (s : State), s.lockOther = false →
    engineStep l (.filter (.acquire x late)) s = { s with
      eng := { s.eng with
        lockHeld := true
        seq := .running l
          (if s.eng.rxStarted then .queue (.disableRead .rx (.paused x late))
            else .filter (match x with
              | .ctrl => .ctrlRead false late
              | .mcast => .program false late)) }
      ports := .acquire :: s.ports }) ∧
  (∀ (l : Latch) (v : Word) (x : Change) (late : Bool) (s : State), s.cfg.queueHandshake = false →
    (engineStep l (.queue (.disableWrite .rx v (.paused x late))) s).eng = { s.eng with
      rxStarted := false
      seq := .running l (.filter (match x with
        | .ctrl => .ctrlRead true late
        | .mcast => .program true late)) }) ∧
  (∀ (l : Latch) (v : Word) (was late : Bool) (s : State),
    (engineStep l (.filter (.ctrlWrite v was late)) s).eng = { s.eng with
      seq := .running l
        (if was = false then .filter (.release .ctrl late)
          else if s.cfg.queueHandshake then .queue (.onRead .rx (.resumed .ctrl late))
          else .queue (.enableRead .rx (.resumed .ctrl late))) } ∧
    (engineStep l (.filter (.program was late)) s).eng = { s.eng with
      seq := .running l
        (if was = false then .filter (.release .mcast late)
          else if s.cfg.queueHandshake then .queue (.onRead .rx (.resumed .mcast late))
          else .queue (.enableRead .rx (.resumed .mcast late))) }) ∧
  (∀ (l : Latch) (v : Word) (x : Change) (late : Bool) (s : State),
    (engineStep l (.queue (.enableWrite .rx v (.resumed x late))) s).eng = { s.eng with
      rxStarted := true
      seq := .running l (.filter (.release x late)) })

/-- R208: a FILTER.SET issued again after one that finished `Success` makes no action but the reads of its list, changes nothing and
finishes `Success`. -/
def Obligations.FilterSetTwiceIsOnce : Prop :=
  ∀ (s t : State) (mcl : Bool) (mask : Half), s.Ready → s.Canonical → s.eng.hwInit = true → mask.toNat < 32 →
    s.FilterLegal mcl → exec (.filterSet mcl mask) s = .next t → t.regs.code = .success →
    ∃ new : List PortAction, exec (.filterSet mcl mask) t = .next { t with ports := new ++ t.ports } ∧
      new.all (fun a => a.isMemRead) = true

/-! ### The queues and the interrupt mask -/

/-- R211 to R214, R225, R226: RX.ENABLE, with its exact port actions. Without the handshake it makes one read and one write and no delay;
with it, the queue is requested and, once it reads as enabled, the receiver switched on; if it does not, the command finishes `Timeout`
after `P_QUEUE_POLL_COUNT` reads and receive is not started. For any schedule, step by step: `StartPolls`. -/
def Obligations.RxEnableStartsReceive : Prop :=
  (∀ (s : State) (ok : Bool), s.Ready → s.eng.hwInit = true →
    ok = (!s.cfg.queueHandshake || (decide (0 < s.cfg.queuePollCount) && s.nic.rxqOn)) →
    ∃ new : List PortAction,
      exec .rxEnable s = .next { s with
        eng := { s.eng with rxStarted := ok || s.eng.rxStarted }
        regs := s.regs.ended (if ok then .success else .timeout)
        nic := { s.nic with
          rxCtrl := if ok then s.nic.rxCtrl ||| s.cfg.bRxEn else s.nic.rxCtrl
          rxqCtl := if s.cfg.queueHandshake then s.regVal .rxqCtl ||| s.cfg.bQen else s.nic.rxqCtl }
        ports := new ++ s.ports } ∧
      new =
        (if ok then [.regWrite s.cfg.oRxCtrl (s.nic.rxCtrl ||| s.cfg.bRxEn), .regRead s.cfg.oRxCtrl s.nic.rxCtrl] else []) ++
        (if s.cfg.queueHandshake then
          pollPorts (.regRead s.cfg.oRxqCtl (s.regVal .rxqCtl)) s.cfg.queuePollUs (if ok then 1 else s.cfg.queuePollCount) ++
            [.regWrite s.cfg.oRxqCtl (s.regVal .rxqCtl ||| s.cfg.bQen), .regRead s.cfg.oRxqCtl (s.regVal .rxqCtl)]
          else []) ∧
      new.countP (fun a => a.isAccess) ≤ (if s.cfg.queueHandshake then 4 + s.cfg.queuePollCount else 2) ∧
      new.countP (fun a => a.isDelay) ≤ s.cfg.queuePollCount - 1) ∧
  StartPolls .rx

/-- R211, R212, R215, R216, R225, R226: RX.DISABLE, with its exact port actions. The receiver is off and `E.rxStarted` 0 whatever the queue
reports. For any schedule, step by step: `StopPolls`. -/
def Obligations.RxDisableStopsReceive : Prop :=
  (∀ (s : State) (ok : Bool), s.Ready → s.eng.hwInit = true →
    ok = (!s.cfg.queueHandshake || (decide (0 < s.cfg.queuePollCount) && !s.nic.rxqOn)) →
    ∃ new : List PortAction,
      exec .rxDisable s = .next { s with
        eng := { s.eng with rxStarted := false }
        regs := s.regs.ended (if ok then .success else .timeout)
        nic := { s.nic with
          rxCtrl := s.nic.rxCtrl &&& ~~~s.cfg.bRxEn
          rxqCtl := if s.cfg.queueHandshake then s.regVal .rxqCtl &&& ~~~s.cfg.bQen else s.nic.rxqCtl }
        ports := new ++ s.ports } ∧
      new =
        (if s.cfg.queueHandshake then
          pollPorts (.regRead s.cfg.oRxqCtl (s.regVal .rxqCtl)) s.cfg.queuePollUs (if ok then 1 else s.cfg.queuePollCount) ++
            [.regWrite s.cfg.oRxqCtl (s.regVal .rxqCtl &&& ~~~s.cfg.bQen), .regRead s.cfg.oRxqCtl (s.regVal .rxqCtl)]
          else []) ++
        [.regWrite s.cfg.oRxCtrl (s.nic.rxCtrl &&& ~~~s.cfg.bRxEn), .regRead s.cfg.oRxCtrl s.nic.rxCtrl] ∧
      new.countP (fun a => a.isAccess) ≤ (if s.cfg.queueHandshake then 4 + s.cfg.queuePollCount else 2) ∧
      new.countP (fun a => a.isDelay) ≤ s.cfg.queuePollCount - 1) ∧
  StopPolls .rx

/-- R211, R212, R217, R218, R225, R226: TXQ.ENABLE, as RX.ENABLE with the transmit queue, unit and flag. -/
def Obligations.TxqEnableStartsTransmit : Prop :=
  (∀ (s : State) (ok : Bool), s.Ready → s.eng.hwInit = true →
    ok = (!s.cfg.queueHandshake || (decide (0 < s.cfg.queuePollCount) && s.nic.txqOn)) →
    ∃ new : List PortAction,
      exec .txqEnable s = .next { s with
        eng := { s.eng with txqEnabled := ok || s.eng.txqEnabled }
        regs := s.regs.ended (if ok then .success else .timeout)
        nic := { s.nic with
          txCtrl := if ok then s.nic.txCtrl ||| s.cfg.bTxEn else s.nic.txCtrl
          txqCtl := if s.cfg.queueHandshake then s.regVal .txqCtl ||| s.cfg.bQen else s.nic.txqCtl }
        ports := new ++ s.ports } ∧
      new =
        (if ok then [.regWrite s.cfg.oTxCtrl (s.nic.txCtrl ||| s.cfg.bTxEn), .regRead s.cfg.oTxCtrl s.nic.txCtrl] else []) ++
        (if s.cfg.queueHandshake then
          pollPorts (.regRead s.cfg.oTxqCtl (s.regVal .txqCtl)) s.cfg.queuePollUs (if ok then 1 else s.cfg.queuePollCount) ++
            [.regWrite s.cfg.oTxqCtl (s.regVal .txqCtl ||| s.cfg.bQen), .regRead s.cfg.oTxqCtl (s.regVal .txqCtl)]
          else []) ∧
      new.countP (fun a => a.isAccess) ≤ (if s.cfg.queueHandshake then 4 + s.cfg.queuePollCount else 2) ∧
      new.countP (fun a => a.isDelay) ≤ s.cfg.queuePollCount - 1) ∧
  StartPolls .tx

/-- R211, R212, R219, R220, R225, R226: TXQ.DISABLE, as RX.DISABLE with the transmit queue, unit and flag. -/
def Obligations.TxqDisableStopsTransmit : Prop :=
  (∀ (s : State) (ok : Bool), s.Ready → s.eng.hwInit = true →
    ok = (!s.cfg.queueHandshake || (decide (0 < s.cfg.queuePollCount) && !s.nic.txqOn)) →
    ∃ new : List PortAction,
      exec .txqDisable s = .next { s with
        eng := { s.eng with txqEnabled := false }
        regs := s.regs.ended (if ok then .success else .timeout)
        nic := { s.nic with
          txCtrl := s.nic.txCtrl &&& ~~~s.cfg.bTxEn
          txqCtl := if s.cfg.queueHandshake then s.regVal .txqCtl &&& ~~~s.cfg.bQen else s.nic.txqCtl }
        ports := new ++ s.ports } ∧
      new =
        (if s.cfg.queueHandshake then
          pollPorts (.regRead s.cfg.oTxqCtl (s.regVal .txqCtl)) s.cfg.queuePollUs (if ok then 1 else s.cfg.queuePollCount) ++
            [.regWrite s.cfg.oTxqCtl (s.regVal .txqCtl &&& ~~~s.cfg.bQen), .regRead s.cfg.oTxqCtl (s.regVal .txqCtl)]
          else []) ++
        [.regWrite s.cfg.oTxCtrl (s.nic.txCtrl &&& ~~~s.cfg.bTxEn), .regRead s.cfg.oTxCtrl s.nic.txCtrl] ∧
      new.countP (fun a => a.isAccess) ≤ (if s.cfg.queueHandshake then 4 + s.cfg.queuePollCount else 2) ∧
      new.countP (fun a => a.isDelay) ≤ s.cfg.queuePollCount - 1) ∧
  StopPolls .tx

/-- R222, R223: INT.MASK with mask M makes its two writes and leaves the NIC's enabled-interrupt set exactly M; between them the set is a
subset of M. Nothing else changes. -/
def Obligations.IntMaskSetsTheMask : Prop :=
  (∀ s : State, s.Ready →
    exec .intMask s = .next { s with
      eng := { s.eng with intMask := s.regs.arg1 }
      regs := s.regs.ended .success
      nic := { s.nic with ims := s.regs.arg1 }
      ports := .regWrite s.cfg.oIms s.regs.arg1 :: .regWrite s.cfg.oImc (~~~s.regs.arg1) :: s.ports }) ∧
  (∀ (l : Latch) (s : State), (engineStep l (.mask .clear) s).nic.ims = s.nic.ims &&& l.arg1)

/-! ### Frames of the engine's steps, under every schedule -/

/-- R166: no step of a transmit command but its decode changes the receive cursor or table, the filter, link and queue state, a NIC register
other than the transmit tail, or a byte of memory other than those it stores to: the descriptor at the write cursor, the status at the
cleanup cursor, the output entry; and the operand registers never change. -/
def Obligations.TransmitStepsFrame : Prop :=
  ∀ (l : Latch) (p : Point) (s t : State), ((∃ q, p = .tx q) ∨ ∃ q, p = .reclaim q) → t = engineStep l p s →
    s.SameOuter t ∧
    t.eng = { s.eng with
      seq := t.eng.seq
      txW := t.eng.txW
      txC := t.eng.txC
      txTab := t.eng.txTab
      lockHeld := t.eng.lockHeld
      fault := t.eng.fault
      faultCause := t.eng.faultCause } ∧
    t.nic = { s.nic with tdt := t.nic.tdt } ∧
    t.regs = { s.regs with
      res2 := t.regs.res2
      code := t.regs.code } ∧
    (t.nic.tdt = s.nic.tdt ∨ ∃ slot, p = .tx (.tail slot)) ∧
    (t.eng.txW = s.eng.txW ∨ t.eng.txW = adv s.eng.txW s.eng.n) ∧
    (t.eng.txC = s.eng.txC ∨ t.eng.txC = adv s.eng.txC s.eng.n) ∧
    s.SameBytesBut t
      (match p with
        | .tx (.sendWrite _) => [(txSlotAddr s.cfg s.eng.txW.toNat, 16)]
        | .tx (.fragWrite _ _) => [(txSlotAddr s.cfg s.eng.txW.toNat, 16)]
        | .reclaim (.output _ k _) => [(l.arg0 + BitVec.ofNat 64 (8 * k), 8)]
        | .reclaim (.clear _ _ d) =>
          [((staWrite s.cfg s.eng.txC.toNat d (d.sta &&& ~~~0x01)).1,
            (staWrite s.cfg s.eng.txC.toNat d (d.sta &&& ~~~0x01)).2.length)]
        | _ => []) ∧
    ((∀ da, p ≠ .tx (.sendWrite da)) → (∀ f rest, p ≠ .tx (.fragWrite f rest)) →
      (∀ h k d, p ≠ .reclaim (.output h k d)) → (∀ h k d, p ≠ .reclaim (.clear h k d)) → t.mem = s.mem)

/-- R183: no step of RX.POLL but its decode changes the transmit ring's state, the filter, link, queue or lock state, the mapper, a NIC
register other than the receive tail, or a byte of memory other than those it stores to: the bytes copied to the caller's buffer and the
descriptor at the receive cursor. -/
def Obligations.ReceiveStepsFrame : Prop :=
  ∀ (l : Latch) (q : RxPoint) (s t : State), t = engineStep l (.rx q) s →
    s.SameOuter t ∧ s.SameMapper t ∧
    t.eng = { s.eng with
      seq := t.eng.seq
      rxC := t.eng.rxC
      rxTrunc := t.eng.rxTrunc } ∧
    t.nic = { s.nic with rdt := t.nic.rdt } ∧
    t.regs = { s.regs with
      res0 := t.regs.res0
      res1 := t.regs.res1
      res2 := t.regs.res2
      res3 := t.regs.res3
      res4 := t.regs.res4
      code := t.regs.code } ∧
    (t.eng.rxC = s.eng.rxC ∨ t.eng.rxC = adv s.eng.rxC s.eng.n) ∧
    s.SameBytesBut t
      (match q with
        | .copy _ n => [(l.arg0, n)]
        | .rearm _ => [(rxSlotAddr s.cfg s.eng.rxC.toNat, 16)]
        | _ => []) ∧
    ((∀ len n, q ≠ .copy len n) → (∀ r, q ≠ .rearm r) → t.mem = s.mem)

/-- R44, R184, R186, R197: `E.link` changes only at a position of LINK.WAIT or at the decode of a LINK.WAIT with CD = 1, and never to
`LinkDown`; it changes in no step of the NIC or the host. -/
def Obligations.OnlyLinkWaitChangesTheLink : Prop :=
  (∀ (l : Latch) (p : Point) (s : State), (engineStep l p s).eng.link ≠ s.eng.link →
    ((∃ q, p = .link q) ∨ (p = .decode ∧ decode l.word = .command (.linkWait true))) ∧
      (engineStep l p s).eng.link ≠ .linkDown) ∧
  (∀ (s : State) (i : Input), i ≠ .reset → (s.outside i).eng.link = s.eng.link)

/-- R38, R43, R127: `E.hwInit`, `E.N` and `E.B` change only at the last step of INIT; `E.rxTrunc` only in RX.POLL, and by one. -/
def Obligations.RingSizeIsFixedByInit : Prop :=
  ∀ (l : Latch) (p : Point) (s t : State), t = engineStep l p s →
    ((t.eng.hwInit ≠ s.eng.hwInit ∨ t.eng.n ≠ s.eng.n ∨ t.eng.b ≠ s.eng.b) →
      (∃ k, p = .init (.program k)) ∧ t.eng.hwInit = true ∧ t.eng.seq = .idle ∧ t.regs.code = .success) ∧
    (t.eng.rxTrunc ≠ s.eng.rxTrunc → (∃ q, p = .rx q) ∧ t.eng.rxTrunc = s.eng.rxTrunc + 1)

/-! ### The NIC and the host -/

/-- R68, R83, R84: what a write to each NIC register does; a register that was not written reads as before, and a read changes nothing but
the record of port actions. The model's choice: that a write of `O_STATUS` does nothing and `O_IMC` reads the enabled set
(notes/assumptions/17.md), and that the other registers read as before also where two offset parameters are equal
(notes/assumptions/29.md). -/
def Obligations.NicRegisterWrites : Prop :=
  ∀ (s : State) (r r' : NicReg) (v : Word),
    ((s.regWrite r v).regVal r' =
      if r = .status then s.regVal r'
      else if r = .ims ∧ (r' = .ims ∨ r' = .imc) then s.nic.ims ||| v
      else if r = .imc ∧ (r' = .ims ∨ r' = .imc) then s.nic.ims &&& ~~~v
      else if r' = r then
        (if r = .rxqCtl then (v &&& ~~~s.cfg.bQen) ||| (if s.nic.rxqOn then s.cfg.bQen else 0)
          else if r = .txqCtl then (v &&& ~~~s.cfg.bQen) ||| (if s.nic.txqOn then s.cfg.bQen else 0)
          else v)
      else s.regVal r') ∧
    s.regRead r = { s with ports := .regRead (regOffset s.cfg r) (s.regVal r) :: s.ports }

/-- R80, R87, R88: the NIC transmit step on the descriptor at its head: the buffer's bytes join the frame being assembled, a descriptor
with EOP puts the frame on the wire, one with RS gets its done bit set, and the head moves by one slot. When the step is enabled, and
which mapping gives `va`, is the model's (notes/assumptions/16.md, notes/assumptions/11.md, notes/assumptions/30.md). -/
def Obligations.NicTransmitStep : Prop :=
  ∀ (s : State) (a va : Addr) (d : TxRec) (frame : List Byte), s.Canonical → s.txStepEnabled = true →
    a = (s.nic.tdbah ++ s.nic.tdbal) + BitVec.ofNat 64 (16 * s.nic.tdh.toNat) → d = decodeTx s.cfg (readDesc s.mem a) →
    s.deviceRange d.addr d.length.toNat = some va →
    frame = s.nic.assembling ++ readBytes s.mem va d.length.toNat →
    ∃ t, s.nicStep .transmit = t ∧
      t = { s with
        mem := t.mem
        wire := if d.cmd.getLsbD 0 then frame :: s.wire else s.wire
        nic := { s.nic with
          assembling := if d.cmd.getLsbD 0 then [] else frame
          tdh := BitVec.ofNat 32 ((s.nic.tdh.toNat + 1) % (s.nic.tdlen.toNat / 16)) } } ∧
      (d.cmd.getLsbD 3 = true → decodeTx s.cfg (readDesc t.mem a) = { d with sta := d.sta ||| 0x01 }) ∧
      (d.cmd.getLsbD 3 = false → t.mem = s.mem) ∧
      s.SameBytesBut t [(a, 16)]

/-- R81, R87: the NIC receive step: the chosen bytes in the buffer at the descriptor's address, then the chosen write-back, then the head. The
Advanced format has the write-back's length, errors, DD and EOP, and its address may be any. Which mapping gives `va`, which choices the
step admits and when it is enabled is the model's (notes/assumptions/11.md, notes/assumptions/30.md, notes/assumptions/15.md,
notes/assumptions/16.md). -/
def Obligations.NicReceiveStep : Prop :=
  ∀ (s : State) (a va : Addr) (data : List Byte) (wb : RxRec), s.Canonical → s.rxStepEnabled = true →
    a = (s.nic.rdbah ++ s.nic.rdbal) + BitVec.ofNat 64 (16 * s.nic.rdh.toNat) →
    wb.sta.getLsbD 0 = true → data.length ≤ s.eng.b.toNat →
    lookupMapping (decodeRx s.cfg (readDesc s.mem a)).addr.toNat data.length s.maps = some va →
    (∀ b, inRange b va data.length → ¬ inRange b a 16) →
    ∃ t, s.nicStep (.receive data wb) = t ∧
      t = { s with
        mem := t.mem
        nic := { s.nic with rdh := BitVec.ofNat 32 ((s.nic.rdh.toNat + 1) % (s.nic.rdlen.toNat / 16)) } } ∧
      readBytes t.mem va data.length = data ∧
      (s.cfg.descFormat = .legacy → decodeRx s.cfg (readDesc t.mem a) = wb) ∧
      (decodeRx s.cfg (readDesc t.mem a)).length = wb.length ∧
      (decodeRx s.cfg (readDesc t.mem a)).errors = wb.errors ∧
      (decodeRx s.cfg (readDesc t.mem a)).sta &&& 0x03 = wb.sta &&& 0x03 ∧
      s.SameBytesBut t [(va, data.length), (a, 16)]

/-- R79 to R83, R85: a NIC step within the contract changes nothing of the block, neither tail, no head by more than one slot, and no byte of
memory but the descriptor at a head and a mapped buffer; the link, PHY and handshake steps change their one bit or word; no transmit or
receive step is made while its enable bit is clear, its queue is off, or its head is its tail. What lies outside the contract is no move of
the model (its choice, notes/assumptions/13.md). -/
def Obligations.NicKeepsToItsContract : Prop :=
  (∀ (s t : State) (n : NicStep), (∀ v, n ≠ .corruptHead v) → t = s.nicStep n →
    t = { s with
      nic := t.nic
      mem := t.mem
      wire := t.wire } ∧
    t.nic.tdt = s.nic.tdt ∧ t.nic.rdt = s.nic.rdt ∧
    (t.nic.tdh = s.nic.tdh ∨
      (s.nic.tdh ≠ s.nic.tdt ∧ t.nic.tdh = BitVec.ofNat 32 ((s.nic.tdh.toNat + 1) % (s.nic.tdlen.toNat / 16)))) ∧
    (t.nic.rdh = s.nic.rdh ∨
      (s.nic.rdh ≠ s.nic.rdt ∧ t.nic.rdh = BitVec.ofNat 32 ((s.nic.rdh.toNat + 1) % (s.nic.rdlen.toNat / 16)))) ∧
    (∀ b, readByte t.mem b ≠ readByte s.mem b →
      inRange b (s.nic.txSlot s.nic.tdh.toNat) 16 ∨ inRange b (s.nic.rxSlot s.nic.rdh.toNat) 16 ∨
        ∃ m ∈ s.maps, inRange b m.va m.len)) ∧
  (∀ (s : State) (up : Bool), s.cfg.bLu ≠ 0 →
    s.nicStep (.link up) = { s with nic := { s.nic with status := (s.nicStep (.link up)).nic.status } } ∧
    (s.nicStep (.link up)).nic.status &&& ~~~s.cfg.bLu = s.nic.status &&& ~~~s.cfg.bLu ∧
    (up = true ↔ (s.nicStep (.link up)).nic.status &&& s.cfg.bLu ≠ 0)) ∧
  (∀ (s : State) (v : Half), s.nicStep (.phy v) = { s with nic := { s.nic with phy := v } }) ∧
  (∀ s : State, s.cfg.queueHandshake = true →
    s.nicStep (.queue .rx) = { s with nic := { s.nic with rxqOn := s.nic.rxqCtl &&& s.cfg.bQen != 0 } } ∧
    s.nicStep (.queue .tx) = { s with nic := { s.nic with txqOn := s.nic.txqCtl &&& s.cfg.bQen != 0 } }) ∧
  (∀ s : State,
    (s.nic.tdh = s.nic.tdt ∨ s.nic.txCtrl &&& s.cfg.bTxEn = 0 ∨ (s.cfg.queueHandshake = true ∧ s.nic.txqOn = false)) →
    s.nicStep .transmit = s) ∧
  (∀ (s : State) (data : List Byte) (wb : RxRec),
    (s.nic.rdh = s.nic.rdt ∨ s.nic.rxCtrl &&& s.cfg.bRxEn = 0 ∨ (s.cfg.queueHandshake = true ∧ s.nic.rxqOn = false)) →
    s.nicStep (.receive data wb) = s)

/-- R66, R92: no step of the host changes a byte of a ring region, of a bound transmit buffer or of a bound receive buffer; and none but a
register access changes the block. A store outside the contract is no move (the model's choice, notes/assumptions/13.md), nor is one whose range
passes 2^64 (the model's choice, notes/assumptions/40.md). -/
def Obligations.HostKeepsOffTheBlocksMemory : Prop :=
  ∀ (s t : State) (h : HostStep) (b : Addr), t = s.hostStep h →
    ((s.cfg.txRingBase.toNat ≤ b.toNat ∧ b.toNat < s.cfg.txRingBase.toNat + 16 * s.cfg.nMax) ∨
      (s.cfg.rxRingBase.toNat ≤ b.toNat ∧ b.toNat < s.cfg.rxRingBase.toNat + 16 * s.cfg.nMax) ∨
      (∃ e ∈ s.eng.txTab, e.2.va.toNat ≤ b.toNat ∧ b.toNat < e.2.va.toNat + e.2.len.toNat) ∨
      (∃ e ∈ s.eng.rxTab, e.2.va.toNat ≤ b.toNat ∧ b.toNat < e.2.va.toNat + s.eng.b.toNat)) →
    readByte t.mem b = readByte s.mem b ∧
      ((∀ off v, h ≠ .write off v) → t.eng = s.eng ∧ t.regs = s.regs)

/-! ### The pure functions of the rules -/

/-- R130: `adv(i, n) = (i + 1) mod n`, with the wrap at `n - 1` and the corner n = 2. -/
def Obligations.AdvanceWrapsAtTheRingSize : Prop :=
  (∀ i n : Half, i.toNat < n.toNat → (adv i n).toNat = (i.toNat + 1) % n.toNat ∧ (adv i n).toNat < n.toNat) ∧
  (∀ n : Half, 0 < n.toNat → adv (n - 1) n = 0) ∧
  adv 0 2 = 1 ∧ adv 1 2 = 0 ∧ adv 7 8 = 0

/-- R173: the frame types in their order of precedence, with their codes. -/
def Obligations.ClassifyPrecedence : Prop :=
  ∀ (c : Config) (m : Mac),
    (m = c.adapterMac → classify c m = .unicast) ∧
    (m ≠ c.adapterMac → m = 0xFFFFFFFFFFFF → classify c m = .broadcast) ∧
    (m ≠ c.adapterMac → m ≠ 0xFFFFFFFFFFFF → m.getLsbD 40 = true → classify c m = .multicast) ∧
    (m ≠ c.adapterMac → m ≠ 0xFFFFFFFFFFFF → m.getLsbD 40 = false → classify c m = .promiscuous) ∧
    FrameType.unicast.bits = 1 ∧ FrameType.broadcast.bits = 2 ∧ FrameType.multicast.bits = 3 ∧ FrameType.promiscuous.bits = 4

/-- R63: a multi-byte number in memory is the sum of its bytes times powers of 256, the lowest address least significant; written that way,
it reads back. -/
def Obligations.NumbersAreLittleEndian : Prop :=
  (∀ (m : List (Nat × Byte)) (a : Addr) (n : Nat),
    leNat (readBytes m a n) = ((List.range n).map (fun k => (readByte m (a + BitVec.ofNat 64 k)).toNat * 2 ^ (8 * k))).sum) ∧
  (∀ (m : List (Nat × Byte)) (a : Addr) (n v : Nat), memWf m = true → v < 256 ^ n → n ≤ 16 →
    leNat (readBytes (writeBytes m a (leBytes n v)) a n) = v)

end
end

