-- ==== Sys2Proof/Laws/Decode.lean ====
section
/-! SUPPORT. The fields of a command word built by the encoder (30_encoding.md R94), and what decoding can answer. -/

namespace Sys2Proof

theorem opcField_cmdWord (opc : BitVec 8) (f0 f1 : Bool) (imm : Half) : opcField (cmdWord opc f0 f1 imm) = opc := by
  apply BitVec.eq_of_getLsbD_eq
  intro i hi
  simp only [opcField, cmdWord, BitVec.getLsbD_extractLsb', BitVec.getLsbD_append, hi, decide_true, Bool.true_and]
  rw [if_pos (by omega)]
  congr 1
  omega

theorem f0Field_cmdWord (opc : BitVec 8) (f0 f1 : Bool) (imm : Half) : f0Field (cmdWord opc f0 f1 imm) = f0 := by
  simp only [f0Field, cmdWord, BitVec.getLsbD_append]
  simp

theorem f1Field_cmdWord (opc : BitVec 8) (f0 f1 : Bool) (imm : Half) : f1Field (cmdWord opc f0 f1 imm) = f1 := by
  simp only [f1Field, cmdWord, BitVec.getLsbD_append]
  simp

theorem immField_cmdWord (opc : BitVec 8) (f0 f1 : Bool) (imm : Half) : immField (cmdWord opc f0 f1 imm) = imm := by
  apply BitVec.eq_of_getLsbD_eq
  intro i hi
  simp only [immField, cmdWord, BitVec.getLsbD_extractLsb', BitVec.getLsbD_append, hi, decide_true, Bool.true_and]
  repeat rw [if_neg (by omega)]
  congr 1
  omega

/-- Everything the reserved-bit test can answer. -/
theorem reservedZero_cases (w mask : Word) (i : Instr) :
    (w &&& mask = 0 ∧ reservedZero w mask i = .command i) ∨
    (w &&& mask ≠ 0 ∧ reservedZero w mask i = .reject .reservedBits) := by
  unfold reservedZero
  by_cases h : w &&& mask = 0
  · exact .inl ⟨h, if_pos h⟩
  · exact .inr ⟨h, if_neg h⟩

end Sys2Proof
end

