-- ==== Sys2Proof/Laws/Table.lean ====
section
/-! SUPPORT. Canonical tables and memory: read after write, and that every write keeps the canonical form. -/

namespace Sys2Proof.Machine

variable {α : Type} [DecidableEq α]

theorem tableWfFrom_mono (d : α) {lo lo' : Nat} (h : lo ≤ lo') :
    ∀ t : List (Nat × α), tableWfFrom d lo' t = true → tableWfFrom d lo t = true
  | [], _ => rfl
  | (k, v) :: t, hw => by
    simp only [tableWfFrom, Bool.and_eq_true, decide_eq_true_eq] at hw ⊢
    exact ⟨⟨by omega, hw.1.2⟩, hw.2⟩

/-- Every index below the first of a canonical table holds the default. -/
theorem tableGet_below (d : α) : ∀ (t : List (Nat × α)) {lo i : Nat},
    tableWfFrom d lo t = true → i < lo → tableGet d t i = d
  | [], _, _, _, _ => rfl
  | (k, v) :: t, lo, i, hw, hi => by
    simp only [tableWfFrom, Bool.and_eq_true, decide_eq_true_eq] at hw
    simp only [tableGet]
    rw [if_neg (by omega)]
    exact tableGet_below d t hw.2 (by omega)

/-- A written entry reads back, in a canonical table. -/
theorem tableGet_set_same_from (d : α) (i : Nat) (v : α) : ∀ (t : List (Nat × α)) {lo : Nat},
    tableWfFrom d lo t = true → tableGet d (tableSet d t i v) i = v
  | [], _, _ => by
    simp only [tableSet]
    split
    · rename_i h; simp [tableGet, h]
    · simp [tableGet]
  | (k, w) :: t, lo, hw => by
    simp only [tableWfFrom, Bool.and_eq_true, decide_eq_true_eq] at hw
    simp only [tableSet]
    split
    · split
      · rename_i h hv
        simp only [tableGet]
        rw [if_neg (by omega), hv]
        exact tableGet_below d t hw.2 (by omega)
      · simp [tableGet]
    · split
      · split
        · rename_i h1 h2 hv
          rw [hv]
          exact tableGet_below d t hw.2 (by omega)
        · simp [tableGet]
      · rename_i h1 h2
        simp only [tableGet]
        rw [if_neg (by omega)]
        exact tableGet_set_same_from d i v t hw.2

/-- A written entry reads back, in a canonical table. -/
theorem tableGet_set_same (d : α) {t : List (Nat × α)} (hw : tableWf d t = true) (i : Nat) (v : α) :
    tableGet d (tableSet d t i v) i = v :=
  tableGet_set_same_from d i v t hw

/-- A write leaves every other entry alone. -/
theorem tableGet_set_ne (d : α) {i j : Nat} (h : j ≠ i) (v : α) :
    ∀ t : List (Nat × α), tableGet d (tableSet d t i v) j = tableGet d t j
  | [] => by
    simp only [tableSet]
    split
    · rfl
    · simp only [tableGet]; rw [if_neg (by omega)]
  | (k, w) :: t => by
    simp only [tableSet]
    split
    · split
      · rfl
      · conv_lhs => unfold tableGet
        rw [if_neg (by omega)]
    · split
      · split
        · simp only [tableGet]; rw [if_neg (by omega)]
        · simp only [tableGet]; rw [if_neg (by omega), if_neg (by omega)]
      · simp only [tableGet, tableGet_set_ne d h v t]

theorem tableSet_wf_from (d : α) (i : Nat) (v : α) : ∀ (t : List (Nat × α)) {lo : Nat},
    lo ≤ i → tableWfFrom d lo t = true → tableWfFrom d lo (tableSet d t i v) = true
  | [], lo, hi, _ => by
    simp only [tableSet]
    split
    · rfl
    · rename_i h; simp [tableWfFrom, hi, h]
  | (k, w) :: t, lo, hi, hw => by
    have hw' := hw
    simp only [tableWfFrom, Bool.and_eq_true, decide_eq_true_eq] at hw'
    simp only [tableSet]
    split
    · split
      · exact hw
      · rename_i h hv
        simp only [tableWfFrom, Bool.and_eq_true, decide_eq_true_eq]
        exact ⟨⟨hi, hv⟩, ⟨by omega, hw'.1.2⟩, hw'.2⟩
    · split
      · split
        · exact tableWfFrom_mono d (by omega) t hw'.2
        · rename_i h1 h2 hv
          subst h2
          simp only [tableWfFrom, Bool.and_eq_true, decide_eq_true_eq]
          exact ⟨⟨hi, hv⟩, hw'.2⟩
      · rename_i h1 h2
        simp only [tableWfFrom, Bool.and_eq_true, decide_eq_true_eq]
        exact ⟨hw'.1, tableSet_wf_from d i v t (by omega) hw'.2⟩

/-- A write keeps the canonical form. -/
theorem tableSet_wf (d : α) {t : List (Nat × α)} (hw : tableWf d t = true) (i : Nat) (v : α) :
    tableWf d (tableSet d t i v) = true :=
  tableSet_wf_from d i v t (Nat.zero_le i) hw

theorem tableWf_nil (d : α) : tableWf d ([] : List (Nat × α)) = true := rfl

/-! ### Memory -/

theorem writeByte_wf {m : List (Nat × Byte)} (h : memWf m = true) (a : Addr) (v : Byte) :
    memWf (writeByte m a v) = true := tableSet_wf unlistedByte h a.toNat v

/-- Writing bytes keeps memory canonical. -/
theorem writeBytes_wf : ∀ (bs : List Byte) {m : List (Nat × Byte)}, memWf m = true → ∀ a : Addr,
    memWf (writeBytes m a bs) = true
  | [], _, h, _ => h
  | b :: bs, _, h, a => writeBytes_wf bs (writeByte_wf h a b) (a + 1)

theorem readByte_writeByte_same {m : List (Nat × Byte)} (h : memWf m = true) (a : Addr) (v : Byte) :
    readByte (writeByte m a v) a = v := tableGet_set_same unlistedByte h a.toNat v

theorem readByte_writeByte_ne (m : List (Nat × Byte)) {a b : Addr} (h : b ≠ a) (v : Byte) :
    readByte (writeByte m a v) b = readByte m b := by
  refine tableGet_set_ne unlistedByte ?_ v m
  intro hn
  exact h (BitVec.eq_of_toNat_eq hn)

theorem sub_succ_toNat {a b : Addr} (h : b ≠ a) : (b - (a + 1)).toNat + 1 = (b - a).toNat := by
  have h0 : (b - a).toNat ≠ 0 := by
    intro h0
    apply h
    have : b - a = 0 := BitVec.eq_of_toNat_eq (by simpa using h0)
    have := congrArg (· + a) this
    simpa using this
  have he : b - (a + 1) = (b - a) - 1#64 := by bv_omega
  rw [he, BitVec.toNat_sub]
  have := (b - a).isLt
  have h1 : (1#64).toNat = 1 := rfl
  omega

/-- Bytes outside the written ones read as before. -/
theorem readByte_writeBytes_out : ∀ (bs : List Byte) (m : List (Nat × Byte)) (a b : Addr),
    ¬ inRange b a bs.length → readByte (writeBytes m a bs) b = readByte m b
  | [], _, _, _, _ => rfl
  | v :: bs, m, a, b, h => by
    have hne : b ≠ a := by
      intro he; apply h; subst he; simp [inRange]
    have hs := sub_succ_toNat hne
    have h' : ¬ inRange b (a + 1) bs.length := by
      simp only [inRange, List.length_cons] at h ⊢; omega
    rw [writeBytes, readByte_writeBytes_out bs _ _ _ h', readByte_writeByte_ne m hne]

/-- A written byte reads back, when the bytes written are fewer than the whole space. -/
theorem readByte_writeBytes_in : ∀ (bs : List Byte) {m : List (Nat × Byte)}, memWf m = true →
    ∀ (a b : Addr), inRange b a bs.length → bs.length ≤ 2 ^ 64 →
    readByte (writeBytes m a bs) b = bs.getD (b - a).toNat 0
  | [], _, _, _, _, h, _ => by simp [inRange] at h
  | v :: bs, m, hm, a, b, h, hl => by
    by_cases hne : b = a
    · subst hne
      have hout : ¬ inRange b (b + 1) bs.length := by
        have : (b - (b + 1)).toNat = 2 ^ 64 - 1 := by
          bv_omega
        simp only [inRange, this, List.length_cons] at hl ⊢; omega
      rw [writeBytes, readByte_writeBytes_out bs _ _ _ hout, readByte_writeByte_same hm]
      simp
    · have hs := sub_succ_toNat hne
      have h' : inRange b (a + 1) bs.length := by
        simp only [inRange, List.length_cons] at h ⊢; omega
      rw [writeBytes, readByte_writeBytes_in bs (writeByte_wf hm a v) _ _ h'
        (by simp only [List.length_cons] at hl; omega), ← hs]
      simp

theorem readBytes_length (m : List (Nat × Byte)) : ∀ (n : Nat) (a : Addr), (readBytes m a n).length = n
  | 0, _ => rfl
  | n + 1, a => by simp [readBytes, readBytes_length m n]

/-- Reading bytes depends on those bytes alone. -/
theorem readBytes_congr {m m' : List (Nat × Byte)} : ∀ (n : Nat) (a : Addr),
    (∀ b, inRange b a n → readByte m b = readByte m' b) → n ≤ 2 ^ 64 → readBytes m a n = readBytes m' a n
  | 0, _, _, _ => rfl
  | n + 1, a, h, hn => by
    rw [readBytes, readBytes, h a (by simp [inRange])]
    congr 1
    refine readBytes_congr n (a + 1) (fun b hb => h b ?_) (by omega)
    by_cases hne : b = a
    · subst hne; simp [inRange]
    · have := sub_succ_toNat hne
      simp only [inRange] at hb ⊢; omega

/-- What was written reads back. -/
theorem readBytes_writeBytes : ∀ (bs : List Byte) {m : List (Nat × Byte)}, memWf m = true → ∀ a : Addr,
    bs.length ≤ 2 ^ 64 → readBytes (writeBytes m a bs) a bs.length = bs
  | [], _, _, _, _ => rfl
  | v :: bs, m, hm, a, hl => by
    rw [List.length_cons, readBytes, readByte_writeBytes_in (v :: bs) hm a a (by simp [inRange]) hl]
    have := readBytes_writeBytes bs (writeByte_wf hm a v) (a + 1) (by simp only [List.length_cons] at hl; omega)
    rw [writeBytes, this]
    simp

/-- Reading a range that the write does not meet. -/
theorem readBytes_writeBytes_out (bs : List Byte) (m : List (Nat × Byte)) (a c : Addr) (n : Nat)
    (h : ∀ b, inRange b c n → ¬ inRange b a bs.length) (hn : n ≤ 2 ^ 64) :
    readBytes (writeBytes m a bs) c n = readBytes m c n :=
  readBytes_congr n c (fun b hb => readByte_writeBytes_out bs m a b (h b hb)) hn

/-- Two ranges that lie below 2^64 and do not meet as numbers do not meet as addresses. -/
theorem not_inRange_of_apart {a b c : Addr} {m n : Nat} (ha : a.toNat + m ≤ 2 ^ 64) (hc : c.toNat + n ≤ 2 ^ 64)
    (hap : a.toNat + m ≤ c.toNat ∨ c.toNat + n ≤ a.toNat) (hb : inRange b c n) : ¬ inRange b a m := by
  simp only [inRange, BitVec.toNat_sub] at hb ⊢
  have := a.isLt
  have := b.isLt
  have := c.isLt
  omega

end Sys2Proof.Machine
end

