-- ==== Sys2Proof/Laws/Layout.lean ====
section
/-! SUPPORT. Byte order and descriptor layout: what is written as a number or a record reads back. -/

namespace Sys2Proof.Machine

theorem leBytes_length : ∀ (n v : Nat), (leBytes n v).length = n
  | 0, _ => rfl
  | n + 1, v => by simp [leBytes, leBytes_length n]

theorem leNat_leBytes : ∀ (n v : Nat), v < 256 ^ n → leNat (leBytes n v) = v
  | 0, v, h => by simp at h; simp [leBytes, leNat, h]
  | n + 1, v, h => by
    have h' : v / 256 < 256 ^ n := by
      rw [Nat.div_lt_iff_lt_mul (by decide), ← Nat.pow_succ]; exact h
    rw [leBytes, leNat, leNat_leBytes n _ h', BitVec.toNat_ofNat]
    omega

theorem descBytes_length (d : Desc) : (descBytes d).length = 16 := leBytes_length 16 _

/-- A descriptor written to memory reads back. -/
theorem readDesc_writeBytes {m : List (Nat × Byte)} (h : memWf m = true) (a : Addr) (d : Desc) :
    readDesc (writeBytes m a (descBytes d)) a = d := by
  have hb := readBytes_writeBytes (descBytes d) h a (by rw [descBytes_length]; decide)
  rw [descBytes_length] at hb
  rw [readDesc, hb, descBytes, leNat_leBytes 16 _ (by have := d.isLt; simpa using this)]
  simp

/-- A descriptor apart from the bytes written reads as before. -/
theorem readDesc_writeBytes_out (bs : List Byte) (m : List (Nat × Byte)) (a c : Addr)
    (h : ∀ b, inRange b c 16 → ¬ inRange b a bs.length) :
    readDesc (writeBytes m a bs) c = readDesc m c := by
  rw [readDesc, readDesc, readBytes_writeBytes_out bs m a c 16 h (by decide)]

theorem unpackTx_packTx (r : TxRec) : unpackTx (packTx r) = r := by
  obtain ⟨addr, length, cso, cmd, sta, css, special⟩ := r
  simp only [unpackTx, packTx, TxRec.mk.injEq]
  refine ⟨?_, ?_, ?_, ?_, ?_, ?_, ?_⟩ <;>
    (apply BitVec.eq_of_getLsbD_eq; intro i hi
     simp only [BitVec.getLsbD_extractLsb', BitVec.getLsbD_append, hi, decide_true, Bool.true_and]
     repeat (first | rw [if_pos (by omega)] | rw [if_neg (by omega)])
     congr 1; omega)

theorem unpackRx_packRx (r : RxRec) : unpackRx (packRx r) = r := by
  obtain ⟨addr, length, csum, sta, errors, special⟩ := r
  simp only [unpackRx, packRx, RxRec.mk.injEq]
  refine ⟨?_, ?_, ?_, ?_, ?_, ?_⟩ <;>
    (apply BitVec.eq_of_getLsbD_eq; intro i hi
     simp only [BitVec.getLsbD_extractLsb', BitVec.getLsbD_append, hi, decide_true, Bool.true_and]
     repeat (first | rw [if_pos (by omega)] | rw [if_neg (by omega)])
     congr 1; omega)

/-- The flags of a transmit record in the Advanced format read back. -/
theorem toAdv_txRecOf (r : AdvTx) : (txRecOf r).toAdv = r := by
  obtain ⟨a, l, e, i, r, v, d, p⟩ := r
  simp only [TxRec.toAdv, txRecOf, AdvTx.mk.injEq, true_and, and_true]
  revert e i r v d
  decide

/-- The flags of a receive record in the Advanced format read back. -/
theorem toAdv_rxRecOf (r : AdvRx) : (rxRecOf r).toAdv = r := by
  obtain ⟨a, l, d, e, p⟩ := r
  simp only [RxRec.toAdv, rxRecOf, AdvRx.mk.injEq, true_and, and_true]
  revert d e
  decide

/-- The Advanced format has the record that the engine writes for a frame (41_transmit.md R149). -/
theorem txRecOf_txDesc (da : Addr) (len : Half) (last vle : Bool) (tag : Half) :
    txRecOf (txDesc da len (txCmd last vle) tag).toAdv = txDesc da len (txCmd last vle) tag := by
  simp only [TxRec.toAdv, txRecOf, txDesc, TxRec.mk.injEq, true_and, and_true]
  revert last vle
  decide

/-- A status of the Advanced format without DD is 0. -/
theorem txRecOf_sta_clear (r : AdvTx) : (txRecOf r).sta &&& ~~~staDd = 0 := by
  simp only [txRecOf]
  cases r.dd <;> decide

/-- A status of the Advanced format with DD is DD. -/
theorem txRecOf_sta_set (r : AdvTx) : (txRecOf r).sta ||| staDd = staDd := by
  simp only [txRecOf]
  cases r.dd <;> decide

/-- The record of the Advanced format that differs from `r` in its done bit. -/
theorem txRecOf_done (r : AdvTx) (on : Bool) :
    ({ txRecOf r with sta := flag on staDd } : TxRec) = txRecOf { r with dd := on } := rfl

/-- Decoding what the engine encoded returns the same record (30_encoding.md R121), for a record that the configuration's format
has and whose done bit is 0. -/
theorem decodeTx_encodeTx (c : Config) (r : TxRec)
    (h : c.descFormat = .advanced → txRecOf r.toAdv = r ∧ r.toAdv.dd = false) : decodeTx c (encodeTx c r) = r := by
  unfold decodeTx encodeTx
  cases hf : c.descFormat with
  | legacy => exact unpackTx_packTx r
  | advanced =>
    obtain ⟨h1, h2⟩ := h hf
    simp only [c.layout.txRead_engine _ h2, h1]

/-- The descriptor the engine writes for a frame reads back (30_encoding.md R121, 41_transmit.md R149). -/
theorem decodeTx_encodeTx_txDesc (c : Config) (da : Addr) (len : Half) (last vle : Bool) (tag : Half) :
    decodeTx c (encodeTx c (txDesc da len (txCmd last vle) tag)) = txDesc da len (txCmd last vle) tag :=
  decodeTx_encodeTx c _ fun _ => ⟨txRecOf_txDesc da len last vle tag, by simp only [TxRec.toAdv, txDesc]; decide⟩

/-- The descriptor the engine writes for a receive buffer reads back (30_encoding.md R121, 40_ring.md R135). -/
theorem decodeRx_encodeRx_rxInit (c : Config) (da : Addr) : decodeRx c (encodeRx c (rxInit da)) = rxInit da := by
  unfold decodeRx encodeRx
  cases hf : c.descFormat with
  | legacy => exact unpackRx_packRx _
  | advanced =>
    have h : (rxInit da).toAdv = { addr := da, length := 0, dd := false, eop := false, errors := 0 } := by
      simp [RxRec.toAdv, rxInit]
    simp only [h, c.layout.rxRead_engine]
    simp [rxRecOf, rxInit, flag]

/-- What the NIC wrote back for a receive buffer, as the Legacy format reads it (20_memory.md R81). -/
theorem decodeRx_encodeRxNic_legacy (c : Config) (r : RxRec) (h : c.descFormat = .legacy) :
    decodeRx c (encodeRxNic c r) = r := by
  simp only [decodeRx, encodeRxNic, h, unpackRx_packRx]

/-- What the NIC wrote back for a receive buffer, as either format reads it: its length, errors, DD and EOP (20_memory.md
R81). -/
theorem decodeRx_encodeRxNic (c : Config) (r d : RxRec) (hd : d = decodeRx c (encodeRxNic c r))
    (hdd : (r.sta &&& staDd) != 0) :
    d.length = r.length ∧ d.errors = r.errors ∧ d.sta &&& (staDd ||| staEop) = r.sta &&& (staDd ||| staEop) := by
  subst hd
  cases hf : c.descFormat with
  | legacy => rw [decodeRx_encodeRxNic_legacy c r hf]; exact ⟨rfl, rfl, rfl⟩
  | advanced =>
    simp only [decodeRx, encodeRxNic, hf]
    rw [c.layout.rxRead_nic r.toAdv hdd]
    refine ⟨rfl, rfl, ?_⟩
    simp only [rxRecOf, RxRec.toAdv]
    generalize r.sta = v
    revert v
    decide

/-- A transmit descriptor of 16 zero bytes has its done bit 0 in either format (40_ring.md R142). -/
theorem txDone_zero (c : Config) : (decodeTx c 0).sta &&& staDd = 0 := by
  unfold decodeTx
  cases c.descFormat with
  | legacy => exact (by decide : (unpackTx 0).sta &&& staDd = 0)
  | advanced => simp only [txRecOf, c.layout.txRead_zero]; decide

theorem leNat_append : ∀ xs ys : List Byte, leNat (xs ++ ys) = leNat xs + 256 ^ xs.length * leNat ys
  | [], ys => by simp [leNat]
  | x :: xs, ys => by
    simp only [List.cons_append, leNat, leNat_append xs ys, List.length_cons, Nat.pow_succ]
    ring

theorem leNat_lt : ∀ xs : List Byte, leNat xs < 256 ^ xs.length
  | [] => by simp [leNat]
  | x :: xs => by
    have h := leNat_lt xs
    have hx := x.isLt
    simp only [leNat, List.length_cons, Nat.pow_succ]
    omega

theorem readBytes_add (m : List (Nat × Byte)) : ∀ (n k : Nat) (a : Addr),
    readBytes m a (n + k) = readBytes m a n ++ readBytes m (a + BitVec.ofNat 64 n) k
  | 0, k, a => by simp [readBytes]
  | n + 1, k, a => by
    rw [Nat.add_right_comm, readBytes, readBytes, readBytes_add m n k (a + 1), List.cons_append]
    congr 3
    rw [BitVec.add_assoc]
    congr 1
    apply BitVec.eq_of_toNat_eq
    simp [Nat.add_comm]

/-- The number in 16 bytes, split around byte 12. -/
theorem leNat_split (m : List (Nat × Byte)) (a : Addr) :
    leNat (readBytes m a 16) = leNat (readBytes m a 12) + 2 ^ 96 * ((readByte m (a + 12)).toNat +
      256 * leNat (readBytes m (a + 13) 3)) := by
  have h := readBytes_add m 12 4 a
  rw [show 12 + 4 = 16 from rfl] at h
  rw [h, leNat_append, readBytes_length]
  have h4 : readBytes m (a + 12) 4 = readByte m (a + 12) :: readBytes m (a + 12 + 1) 3 := rfl
  have h13 : a + 12 + 1 = a + 13 := by bv_omega
  rw [show (BitVec.ofNat 64 12) = (12 : Addr) from rfl, h4, h13]
  simp only [leNat]
  norm_num

/-- Writing byte 12 of a Legacy transmit descriptor changes its status and nothing else (30_encoding.md R113). -/
theorem unpackTx_write_sta {m : List (Nat × Byte)} (h : memWf m = true) (a : Addr) (v : Byte) :
    unpackTx (readDesc (writeBytes m (a + 12) [v]) a) = { unpackTx (readDesc m a) with sta := v } := by
  have e12 : readByte (writeBytes m (a + 12) [v]) (a + 12) = v := by
    simpa [writeBytes] using readByte_writeByte_same h (a + 12) v
  have elo : readBytes (writeBytes m (a + 12) [v]) a 12 = readBytes m a 12 :=
    readBytes_writeBytes_out _ _ _ _ _ (by intro b hb; simp only [inRange, List.length_cons, List.length_nil] at hb ⊢; bv_omega) (by decide)
  have ehi : readBytes (writeBytes m (a + 12) [v]) (a + 13) 3 = readBytes m (a + 13) 3 :=
    readBytes_writeBytes_out _ _ _ _ _ (by intro b hb; simp only [inRange, List.length_cons, List.length_nil] at hb ⊢; bv_omega) (by decide)
  have l1 := leNat_lt (readBytes m a 12)
  have l2 := leNat_lt (readBytes m (a + 13) 3)
  rw [readBytes_length] at l1 l2
  have l3 := (readByte m (a + 12)).isLt
  have l4 := v.isLt
  have s1 := leNat_split m a
  have s2 := leNat_split (writeBytes m (a + 12) [v]) a
  rw [elo, ehi, e12] at s2
  simp only [unpackTx, readDesc, s1, s2, TxRec.mk.injEq]
  generalize leNat (readBytes m a 12) = L at *
  generalize leNat (readBytes m (a + 13) 3) = H at *
  generalize (readByte m (a + 12)).toNat = b at *
  refine ⟨?_, ?_, ?_, ?_, ?_, ?_, ?_⟩ <;> apply BitVec.eq_of_toNat_eq <;>
    simp only [BitVec.extractLsb'_toNat, BitVec.toNat_ofNat, Nat.shiftRight_eq_div_pow] <;> omega

/-- Clearing the done bit in the transmit descriptor of slot `i`, in either format, changes its status and nothing else
(41_transmit.md R160). -/
theorem decodeTx_staWrite (c : Config) {m : List (Nat × Byte)} (h : memWf m = true) (i : Nat) {sta : Byte} {d : TxRec}
    (hd : d = decodeTx c (readDesc m (txSlotAddr c i))) (hs : sta = d.sta &&& ~~~staDd) :
    decodeTx c (readDesc (writeBytes m (staWrite c i d sta).1 (staWrite c i d sta).2) (txSlotAddr c i)) =
      { d with sta := sta } := by
  unfold staWrite
  cases hf : c.descFormat with
  | legacy =>
    simp only [decodeTx, hf] at hd ⊢
    rw [unpackTx_write_sta h, hd]
  | advanced =>
    simp only
    rw [readDesc_writeBytes h]
    refine decodeTx_encodeTx c _ fun _ => ?_
    simp only [decodeTx, hf] at hd
    subst hd
    rw [txRecOf_sta_clear] at hs
    subst hs
    exact ⟨by rw [show (0 : Byte) = flag false staDd from rfl, txRecOf_done, toAdv_txRecOf], by simp only [TxRec.toAdv]; decide⟩

/-- The NIC's done bit, in either format, changes the status of the descriptor at `a` and nothing else (20_memory.md R80). -/
theorem decodeTx_setDone (c : Config) {m : List (Nat × Byte)} (h : memWf m = true) (a : Addr) {d : TxRec}
    (hd : d = decodeTx c (readDesc m a)) :
    decodeTx c (readDesc (setDone c m a d) a) = { d with sta := d.sta ||| staDd } := by
  unfold setDone
  cases hf : c.descFormat with
  | legacy =>
    simp only [decodeTx, hf] at hd ⊢
    rw [unpackTx_write_sta h, hd]
  | advanced =>
    simp only [decodeTx, hf] at hd
    subst hd
    simp only [decodeTx, encodeTxNic, hf, readDesc_writeBytes h, txRecOf_sta_set]
    rw [show staDd = flag true staDd from rfl, txRecOf_done, toAdv_txRecOf, c.layout.txRead_nic _ rfl]

/-- The status write touches no byte outside the descriptor of its slot. -/
theorem staWrite_inside (c : Config) (i : Nat) (d : TxRec) (sta : Byte) (b : Addr)
    (h : inRange b (staWrite c i d sta).1 (staWrite c i d sta).2.length) : inRange b (txSlotAddr c i) 16 := by
  unfold staWrite at h
  cases hf : c.descFormat with
  | legacy =>
    simp only [hf, inRange, List.length_cons, List.length_nil] at h ⊢
    bv_omega
  | advanced =>
    simp only [hf, descBytes_length] at h
    exact h

/-! ### Every operation on memory keeps the canonical form -/

theorem memWrite_memWf {s : State} (h : memWf s.mem = true) (a : Addr) (bs : List Byte) :
    memWf (s.memWrite a bs).mem = true := writeBytes_wf bs h a

theorem copyBytes_memWf {s : State} (h : memWf s.mem = true) (dst src : Addr) (n : Nat) :
    memWf (s.copyBytes dst src n).mem = true := writeBytes_wf _ h dst

theorem writeTxd_memWf {s : State} (h : memWf s.mem = true) (i : Nat) (r : TxRec) :
    memWf (s.writeTxd i r).mem = true := writeBytes_wf _ h _

theorem writeRxd_memWf {s : State} (h : memWf s.mem = true) (i : Nat) (r : RxRec) :
    memWf (s.writeRxd i r).mem = true := writeBytes_wf _ h _

theorem setDone_memWf (c : Config) {m : List (Nat × Byte)} (h : memWf m = true) (a : Addr) (d : TxRec) :
    memWf (setDone c m a d) = true := by
  unfold setDone; cases c.descFormat <;> exact writeBytes_wf _ h _

/-- Memory after reset is in canonical form. -/
theorem reset_memWf : memWf State.reset.mem = true := rfl

end Sys2Proof.Machine
end

