-- ==== Sys2Proof/Laws/State.lean ====
section
/-! SUPPORT. What every named update of the state does to every field: one lemma per field per update. -/

namespace Sys2Proof.Machine

variable (s : State)

@[simp] theorem State.note_cfg (a : PortAction) : (s.note a).cfg = s.cfg := rfl
@[simp] theorem State.note_eng (a : PortAction) : (s.note a).eng = s.eng := rfl
@[simp] theorem State.note_regs (a : PortAction) : (s.note a).regs = s.regs := rfl
@[simp] theorem State.note_nic (a : PortAction) : (s.note a).nic = s.nic := rfl
@[simp] theorem State.note_mem (a : PortAction) : (s.note a).mem = s.mem := rfl
@[simp] theorem State.note_maps (a : PortAction) : (s.note a).maps = s.maps := rfl
@[simp] theorem State.note_mapper (a : PortAction) : (s.note a).mapper = s.mapper := rfl
@[simp] theorem State.note_mapCount (a : PortAction) : (s.note a).mapCount = s.mapCount := rfl
@[simp] theorem State.note_lockOther (a : PortAction) : (s.note a).lockOther = s.lockOther := rfl
@[simp] theorem State.note_inputs (a : PortAction) : (s.note a).inputs = s.inputs := rfl
@[simp] theorem State.note_wire (a : PortAction) : (s.note a).wire = s.wire := rfl
@[simp] theorem State.note_ports (a : PortAction) : (s.note a).ports = a :: s.ports := rfl
@[simp] theorem State.note_reads (a : PortAction) : (s.note a).reads = s.reads := rfl

@[simp] theorem State.setEng_cfg (e : Engine) : (s.setEng e).cfg = s.cfg := rfl
@[simp] theorem State.setEng_eng (e : Engine) : (s.setEng e).eng = e := rfl
@[simp] theorem State.setEng_regs (e : Engine) : (s.setEng e).regs = s.regs := rfl
@[simp] theorem State.setEng_nic (e : Engine) : (s.setEng e).nic = s.nic := rfl
@[simp] theorem State.setEng_mem (e : Engine) : (s.setEng e).mem = s.mem := rfl
@[simp] theorem State.setEng_maps (e : Engine) : (s.setEng e).maps = s.maps := rfl
@[simp] theorem State.setEng_mapper (e : Engine) : (s.setEng e).mapper = s.mapper := rfl
@[simp] theorem State.setEng_mapCount (e : Engine) : (s.setEng e).mapCount = s.mapCount := rfl
@[simp] theorem State.setEng_lockOther (e : Engine) : (s.setEng e).lockOther = s.lockOther := rfl
@[simp] theorem State.setEng_inputs (e : Engine) : (s.setEng e).inputs = s.inputs := rfl
@[simp] theorem State.setEng_wire (e : Engine) : (s.setEng e).wire = s.wire := rfl
@[simp] theorem State.setEng_ports (e : Engine) : (s.setEng e).ports = s.ports := rfl
@[simp] theorem State.setEng_reads (e : Engine) : (s.setEng e).reads = s.reads := rfl

@[simp] theorem State.setRegs_cfg (r : HostRegs) : (s.setRegs r).cfg = s.cfg := rfl
@[simp] theorem State.setRegs_eng (r : HostRegs) : (s.setRegs r).eng = s.eng := rfl
@[simp] theorem State.setRegs_regs (r : HostRegs) : (s.setRegs r).regs = r := rfl
@[simp] theorem State.setRegs_nic (r : HostRegs) : (s.setRegs r).nic = s.nic := rfl
@[simp] theorem State.setRegs_mem (r : HostRegs) : (s.setRegs r).mem = s.mem := rfl
@[simp] theorem State.setRegs_maps (r : HostRegs) : (s.setRegs r).maps = s.maps := rfl
@[simp] theorem State.setRegs_mapper (r : HostRegs) : (s.setRegs r).mapper = s.mapper := rfl
@[simp] theorem State.setRegs_mapCount (r : HostRegs) : (s.setRegs r).mapCount = s.mapCount := rfl
@[simp] theorem State.setRegs_lockOther (r : HostRegs) : (s.setRegs r).lockOther = s.lockOther := rfl
@[simp] theorem State.setRegs_inputs (r : HostRegs) : (s.setRegs r).inputs = s.inputs := rfl
@[simp] theorem State.setRegs_wire (r : HostRegs) : (s.setRegs r).wire = s.wire := rfl
@[simp] theorem State.setRegs_ports (r : HostRegs) : (s.setRegs r).ports = s.ports := rfl
@[simp] theorem State.setRegs_reads (r : HostRegs) : (s.setRegs r).reads = s.reads := rfl

@[simp] theorem State.setNic_cfg (d : Nic) : (s.setNic d).cfg = s.cfg := rfl
@[simp] theorem State.setNic_eng (d : Nic) : (s.setNic d).eng = s.eng := rfl
@[simp] theorem State.setNic_regs (d : Nic) : (s.setNic d).regs = s.regs := rfl
@[simp] theorem State.setNic_nic (d : Nic) : (s.setNic d).nic = d := rfl
@[simp] theorem State.setNic_mem (d : Nic) : (s.setNic d).mem = s.mem := rfl
@[simp] theorem State.setNic_maps (d : Nic) : (s.setNic d).maps = s.maps := rfl
@[simp] theorem State.setNic_mapper (d : Nic) : (s.setNic d).mapper = s.mapper := rfl
@[simp] theorem State.setNic_mapCount (d : Nic) : (s.setNic d).mapCount = s.mapCount := rfl
@[simp] theorem State.setNic_lockOther (d : Nic) : (s.setNic d).lockOther = s.lockOther := rfl
@[simp] theorem State.setNic_inputs (d : Nic) : (s.setNic d).inputs = s.inputs := rfl
@[simp] theorem State.setNic_wire (d : Nic) : (s.setNic d).wire = s.wire := rfl
@[simp] theorem State.setNic_ports (d : Nic) : (s.setNic d).ports = s.ports := rfl
@[simp] theorem State.setNic_reads (d : Nic) : (s.setNic d).reads = s.reads := rfl

@[simp] theorem State.setMem_cfg (m : List (Nat × Byte)) : (s.setMem m).cfg = s.cfg := rfl
@[simp] theorem State.setMem_eng (m : List (Nat × Byte)) : (s.setMem m).eng = s.eng := rfl
@[simp] theorem State.setMem_regs (m : List (Nat × Byte)) : (s.setMem m).regs = s.regs := rfl
@[simp] theorem State.setMem_nic (m : List (Nat × Byte)) : (s.setMem m).nic = s.nic := rfl
@[simp] theorem State.setMem_mem (m : List (Nat × Byte)) : (s.setMem m).mem = m := rfl
@[simp] theorem State.setMem_maps (m : List (Nat × Byte)) : (s.setMem m).maps = s.maps := rfl
@[simp] theorem State.setMem_mapper (m : List (Nat × Byte)) : (s.setMem m).mapper = s.mapper := rfl
@[simp] theorem State.setMem_mapCount (m : List (Nat × Byte)) : (s.setMem m).mapCount = s.mapCount := rfl
@[simp] theorem State.setMem_lockOther (m : List (Nat × Byte)) : (s.setMem m).lockOther = s.lockOther := rfl
@[simp] theorem State.setMem_inputs (m : List (Nat × Byte)) : (s.setMem m).inputs = s.inputs := rfl
@[simp] theorem State.setMem_wire (m : List (Nat × Byte)) : (s.setMem m).wire = s.wire := rfl
@[simp] theorem State.setMem_ports (m : List (Nat × Byte)) : (s.setMem m).ports = s.ports := rfl
@[simp] theorem State.setMem_reads (m : List (Nat × Byte)) : (s.setMem m).reads = s.reads := rfl

@[simp] theorem State.setInputs_cfg (is : List Input) : (s.setInputs is).cfg = s.cfg := rfl
@[simp] theorem State.setInputs_eng (is : List Input) : (s.setInputs is).eng = s.eng := rfl
@[simp] theorem State.setInputs_regs (is : List Input) : (s.setInputs is).regs = s.regs := rfl
@[simp] theorem State.setInputs_nic (is : List Input) : (s.setInputs is).nic = s.nic := rfl
@[simp] theorem State.setInputs_mem (is : List Input) : (s.setInputs is).mem = s.mem := rfl
@[simp] theorem State.setInputs_maps (is : List Input) : (s.setInputs is).maps = s.maps := rfl
@[simp] theorem State.setInputs_mapper (is : List Input) : (s.setInputs is).mapper = s.mapper := rfl
@[simp] theorem State.setInputs_mapCount (is : List Input) : (s.setInputs is).mapCount = s.mapCount := rfl
@[simp] theorem State.setInputs_lockOther (is : List Input) : (s.setInputs is).lockOther = s.lockOther := rfl
@[simp] theorem State.setInputs_inputs (is : List Input) : (s.setInputs is).inputs = is := rfl
@[simp] theorem State.setInputs_wire (is : List Input) : (s.setInputs is).wire = s.wire := rfl
@[simp] theorem State.setInputs_ports (is : List Input) : (s.setInputs is).ports = s.ports := rfl
@[simp] theorem State.setInputs_reads (is : List Input) : (s.setInputs is).reads = s.reads := rfl

@[simp] theorem State.setSeq_cfg (q : Seq) : (s.setSeq q).cfg = s.cfg := rfl
@[simp] theorem State.setSeq_eng (q : Seq) : (s.setSeq q).eng = { s.eng with seq := q } := rfl
@[simp] theorem State.setSeq_regs (q : Seq) : (s.setSeq q).regs = s.regs := rfl
@[simp] theorem State.setSeq_nic (q : Seq) : (s.setSeq q).nic = s.nic := rfl
@[simp] theorem State.setSeq_mem (q : Seq) : (s.setSeq q).mem = s.mem := rfl
@[simp] theorem State.setSeq_maps (q : Seq) : (s.setSeq q).maps = s.maps := rfl
@[simp] theorem State.setSeq_mapper (q : Seq) : (s.setSeq q).mapper = s.mapper := rfl
@[simp] theorem State.setSeq_mapCount (q : Seq) : (s.setSeq q).mapCount = s.mapCount := rfl
@[simp] theorem State.setSeq_lockOther (q : Seq) : (s.setSeq q).lockOther = s.lockOther := rfl
@[simp] theorem State.setSeq_inputs (q : Seq) : (s.setSeq q).inputs = s.inputs := rfl
@[simp] theorem State.setSeq_wire (q : Seq) : (s.setSeq q).wire = s.wire := rfl
@[simp] theorem State.setSeq_ports (q : Seq) : (s.setSeq q).ports = s.ports := rfl
@[simp] theorem State.setSeq_reads (q : Seq) : (s.setSeq q).reads = s.reads := rfl

@[simp] theorem State.goto_cfg (l : Latch) (p : Point) : (s.goto l p).cfg = s.cfg := rfl
@[simp] theorem State.goto_eng (l : Latch) (p : Point) : (s.goto l p).eng = { s.eng with seq := .running l p } := rfl
@[simp] theorem State.goto_regs (l : Latch) (p : Point) : (s.goto l p).regs = s.regs := rfl
@[simp] theorem State.goto_nic (l : Latch) (p : Point) : (s.goto l p).nic = s.nic := rfl
@[simp] theorem State.goto_mem (l : Latch) (p : Point) : (s.goto l p).mem = s.mem := rfl
@[simp] theorem State.goto_maps (l : Latch) (p : Point) : (s.goto l p).maps = s.maps := rfl
@[simp] theorem State.goto_mapper (l : Latch) (p : Point) : (s.goto l p).mapper = s.mapper := rfl
@[simp] theorem State.goto_mapCount (l : Latch) (p : Point) : (s.goto l p).mapCount = s.mapCount := rfl
@[simp] theorem State.goto_lockOther (l : Latch) (p : Point) : (s.goto l p).lockOther = s.lockOther := rfl
@[simp] theorem State.goto_inputs (l : Latch) (p : Point) : (s.goto l p).inputs = s.inputs := rfl
@[simp] theorem State.goto_wire (l : Latch) (p : Point) : (s.goto l p).wire = s.wire := rfl
@[simp] theorem State.goto_ports (l : Latch) (p : Point) : (s.goto l p).ports = s.ports := rfl
@[simp] theorem State.goto_reads (l : Latch) (p : Point) : (s.goto l p).reads = s.reads := rfl

@[simp] theorem State.finish_cfg (c : Status) : (s.finish c).cfg = s.cfg := rfl
@[simp] theorem State.finish_eng (c : Status) : (s.finish c).eng = { s.eng with seq := .idle } := rfl
@[simp] theorem State.finish_regs (c : Status) : (s.finish c).regs = { s.regs with code := c } := rfl
@[simp] theorem State.finish_nic (c : Status) : (s.finish c).nic = s.nic := rfl
@[simp] theorem State.finish_mem (c : Status) : (s.finish c).mem = s.mem := rfl
@[simp] theorem State.finish_maps (c : Status) : (s.finish c).maps = s.maps := rfl
@[simp] theorem State.finish_mapper (c : Status) : (s.finish c).mapper = s.mapper := rfl
@[simp] theorem State.finish_mapCount (c : Status) : (s.finish c).mapCount = s.mapCount := rfl
@[simp] theorem State.finish_lockOther (c : Status) : (s.finish c).lockOther = s.lockOther := rfl
@[simp] theorem State.finish_inputs (c : Status) : (s.finish c).inputs = s.inputs := rfl
@[simp] theorem State.finish_wire (c : Status) : (s.finish c).wire = s.wire := rfl
@[simp] theorem State.finish_ports (c : Status) : (s.finish c).ports = s.ports := rfl
@[simp] theorem State.finish_reads (c : Status) : (s.finish c).reads = s.reads := rfl

@[simp] theorem State.refuse_cfg : s.refuse.cfg = s.cfg := rfl
@[simp] theorem State.refuse_eng : s.refuse.eng = { s.eng with seq := .idle } := rfl
@[simp] theorem State.refuse_regs : s.refuse.regs = { s.regs with code := .refused } := rfl
@[simp] theorem State.refuse_nic : s.refuse.nic = s.nic := rfl
@[simp] theorem State.refuse_mem : s.refuse.mem = s.mem := rfl
@[simp] theorem State.refuse_maps : s.refuse.maps = s.maps := rfl
@[simp] theorem State.refuse_mapper : s.refuse.mapper = s.mapper := rfl
@[simp] theorem State.refuse_mapCount : s.refuse.mapCount = s.mapCount := rfl
@[simp] theorem State.refuse_lockOther : s.refuse.lockOther = s.lockOther := rfl
@[simp] theorem State.refuse_inputs : s.refuse.inputs = s.inputs := rfl
@[simp] theorem State.refuse_wire : s.refuse.wire = s.wire := rfl
@[simp] theorem State.refuse_ports : s.refuse.ports = s.ports := rfl
@[simp] theorem State.refuse_reads : s.refuse.reads = s.reads := rfl

@[simp] theorem State.raiseFault_cfg (c : FaultCause) : (s.raiseFault c).cfg = s.cfg := rfl
@[simp] theorem State.raiseFault_eng (c : FaultCause) :
    (s.raiseFault c).eng = { s.eng with fault := true, faultCause := c, seq := .idle } := rfl
@[simp] theorem State.raiseFault_regs (c : FaultCause) :
    (s.raiseFault c).regs = { s.regs with code := .faulted } := rfl
@[simp] theorem State.raiseFault_nic (c : FaultCause) : (s.raiseFault c).nic = s.nic := rfl
@[simp] theorem State.raiseFault_mem (c : FaultCause) : (s.raiseFault c).mem = s.mem := rfl
@[simp] theorem State.raiseFault_maps (c : FaultCause) : (s.raiseFault c).maps = s.maps := rfl
@[simp] theorem State.raiseFault_mapper (c : FaultCause) : (s.raiseFault c).mapper = s.mapper := rfl
@[simp] theorem State.raiseFault_mapCount (c : FaultCause) : (s.raiseFault c).mapCount = s.mapCount := rfl
@[simp] theorem State.raiseFault_lockOther (c : FaultCause) : (s.raiseFault c).lockOther = s.lockOther := rfl
@[simp] theorem State.raiseFault_inputs (c : FaultCause) : (s.raiseFault c).inputs = s.inputs := rfl
@[simp] theorem State.raiseFault_wire (c : FaultCause) : (s.raiseFault c).wire = s.wire := rfl
@[simp] theorem State.raiseFault_ports (c : FaultCause) : (s.raiseFault c).ports = s.ports := rfl
@[simp] theorem State.raiseFault_reads (c : FaultCause) : (s.raiseFault c).reads = s.reads := rfl

@[simp] theorem State.blockReset_cfg : s.blockReset.cfg = s.cfg := rfl
@[simp] theorem State.blockReset_eng : s.blockReset.eng = Engine.reset := rfl
@[simp] theorem State.blockReset_regs : s.blockReset.regs = HostRegs.reset := rfl
@[simp] theorem State.blockReset_nic : s.blockReset.nic = s.nic := rfl
@[simp] theorem State.blockReset_mem : s.blockReset.mem = s.mem := rfl
@[simp] theorem State.blockReset_maps : s.blockReset.maps = s.maps := rfl
@[simp] theorem State.blockReset_mapper : s.blockReset.mapper = s.mapper := rfl
@[simp] theorem State.blockReset_mapCount : s.blockReset.mapCount = s.mapCount := rfl
@[simp] theorem State.blockReset_lockOther : s.blockReset.lockOther = s.lockOther := rfl
@[simp] theorem State.blockReset_inputs : s.blockReset.inputs = s.inputs := rfl
@[simp] theorem State.blockReset_wire : s.blockReset.wire = s.wire := rfl
@[simp] theorem State.blockReset_ports : s.blockReset.ports = s.ports := rfl
@[simp] theorem State.blockReset_reads : s.blockReset.reads = s.reads := rfl

@[simp] theorem State.regRead_cfg (r : NicReg) : (s.regRead r).cfg = s.cfg := rfl
@[simp] theorem State.regRead_eng (r : NicReg) : (s.regRead r).eng = s.eng := rfl
@[simp] theorem State.regRead_regs (r : NicReg) : (s.regRead r).regs = s.regs := rfl
@[simp] theorem State.regRead_nic (r : NicReg) : (s.regRead r).nic = s.nic := rfl
@[simp] theorem State.regRead_mem (r : NicReg) : (s.regRead r).mem = s.mem := rfl
@[simp] theorem State.regRead_maps (r : NicReg) : (s.regRead r).maps = s.maps := rfl
@[simp] theorem State.regRead_mapper (r : NicReg) : (s.regRead r).mapper = s.mapper := rfl
@[simp] theorem State.regRead_mapCount (r : NicReg) : (s.regRead r).mapCount = s.mapCount := rfl
@[simp] theorem State.regRead_lockOther (r : NicReg) : (s.regRead r).lockOther = s.lockOther := rfl
@[simp] theorem State.regRead_inputs (r : NicReg) : (s.regRead r).inputs = s.inputs := rfl
@[simp] theorem State.regRead_wire (r : NicReg) : (s.regRead r).wire = s.wire := rfl
@[simp] theorem State.regRead_ports (r : NicReg) :
    (s.regRead r).ports = .regRead (regOffset s.cfg r) (s.regVal r) :: s.ports := rfl
@[simp] theorem State.regRead_reads (r : NicReg) : (s.regRead r).reads = s.reads := rfl

@[simp] theorem State.regWrite_cfg (r : NicReg) (v : Word) : (s.regWrite r v).cfg = s.cfg := rfl
@[simp] theorem State.regWrite_eng (r : NicReg) (v : Word) : (s.regWrite r v).eng = s.eng := rfl
@[simp] theorem State.regWrite_regs (r : NicReg) (v : Word) : (s.regWrite r v).regs = s.regs := rfl
@[simp] theorem State.regWrite_nic (r : NicReg) (v : Word) : (s.regWrite r v).nic = nicWrite s.nic r v := rfl
@[simp] theorem State.regWrite_mem (r : NicReg) (v : Word) : (s.regWrite r v).mem = s.mem := rfl
@[simp] theorem State.regWrite_maps (r : NicReg) (v : Word) : (s.regWrite r v).maps = s.maps := rfl
@[simp] theorem State.regWrite_mapper (r : NicReg) (v : Word) : (s.regWrite r v).mapper = s.mapper := rfl
@[simp] theorem State.regWrite_mapCount (r : NicReg) (v : Word) : (s.regWrite r v).mapCount = s.mapCount := rfl
@[simp] theorem State.regWrite_lockOther (r : NicReg) (v : Word) : (s.regWrite r v).lockOther = s.lockOther := rfl
@[simp] theorem State.regWrite_inputs (r : NicReg) (v : Word) : (s.regWrite r v).inputs = s.inputs := rfl
@[simp] theorem State.regWrite_wire (r : NicReg) (v : Word) : (s.regWrite r v).wire = s.wire := rfl
@[simp] theorem State.regWrite_ports (r : NicReg) (v : Word) :
    (s.regWrite r v).ports = .regWrite (regOffset s.cfg r) v :: s.ports := rfl
@[simp] theorem State.regWrite_reads (r : NicReg) (v : Word) : (s.regWrite r v).reads = s.reads := rfl

@[simp] theorem State.memRead_cfg (a : Addr) (n : Nat) : (s.memRead a n).cfg = s.cfg := rfl
@[simp] theorem State.memRead_eng (a : Addr) (n : Nat) : (s.memRead a n).eng = s.eng := rfl
@[simp] theorem State.memRead_regs (a : Addr) (n : Nat) : (s.memRead a n).regs = s.regs := rfl
@[simp] theorem State.memRead_nic (a : Addr) (n : Nat) : (s.memRead a n).nic = s.nic := rfl
@[simp] theorem State.memRead_mem (a : Addr) (n : Nat) : (s.memRead a n).mem = s.mem := rfl
@[simp] theorem State.memRead_maps (a : Addr) (n : Nat) : (s.memRead a n).maps = s.maps := rfl
@[simp] theorem State.memRead_mapper (a : Addr) (n : Nat) : (s.memRead a n).mapper = s.mapper := rfl
@[simp] theorem State.memRead_mapCount (a : Addr) (n : Nat) : (s.memRead a n).mapCount = s.mapCount := rfl
@[simp] theorem State.memRead_lockOther (a : Addr) (n : Nat) : (s.memRead a n).lockOther = s.lockOther := rfl
@[simp] theorem State.memRead_inputs (a : Addr) (n : Nat) : (s.memRead a n).inputs = s.inputs := rfl
@[simp] theorem State.memRead_wire (a : Addr) (n : Nat) : (s.memRead a n).wire = s.wire := rfl
@[simp] theorem State.memRead_ports (a : Addr) (n : Nat) : (s.memRead a n).ports = .memRead a n :: s.ports := rfl
@[simp] theorem State.memRead_reads (a : Addr) (n : Nat) : (s.memRead a n).reads = s.reads := rfl

@[simp] theorem State.memWrite_cfg (a : Addr) (bytes : List Byte) : (s.memWrite a bytes).cfg = s.cfg := rfl
@[simp] theorem State.memWrite_eng (a : Addr) (bytes : List Byte) : (s.memWrite a bytes).eng = s.eng := rfl
@[simp] theorem State.memWrite_regs (a : Addr) (bytes : List Byte) : (s.memWrite a bytes).regs = s.regs := rfl
@[simp] theorem State.memWrite_nic (a : Addr) (bytes : List Byte) : (s.memWrite a bytes).nic = s.nic := rfl
@[simp] theorem State.memWrite_mem (a : Addr) (bytes : List Byte) :
    (s.memWrite a bytes).mem = writeBytes s.mem a bytes := rfl
@[simp] theorem State.memWrite_maps (a : Addr) (bytes : List Byte) : (s.memWrite a bytes).maps = s.maps := rfl
@[simp] theorem State.memWrite_mapper (a : Addr) (bytes : List Byte) : (s.memWrite a bytes).mapper = s.mapper := rfl
@[simp] theorem State.memWrite_mapCount (a : Addr) (bytes : List Byte) :
    (s.memWrite a bytes).mapCount = s.mapCount := rfl
@[simp] theorem State.memWrite_lockOther (a : Addr) (bytes : List Byte) :
    (s.memWrite a bytes).lockOther = s.lockOther := rfl
@[simp] theorem State.memWrite_inputs (a : Addr) (bytes : List Byte) : (s.memWrite a bytes).inputs = s.inputs := rfl
@[simp] theorem State.memWrite_wire (a : Addr) (bytes : List Byte) : (s.memWrite a bytes).wire = s.wire := rfl
@[simp] theorem State.memWrite_ports (a : Addr) (bytes : List Byte) :
    (s.memWrite a bytes).ports = .memWrite a bytes :: s.ports := rfl
@[simp] theorem State.memWrite_reads (a : Addr) (bytes : List Byte) : (s.memWrite a bytes).reads = s.reads := rfl

@[simp] theorem State.copyBytes_cfg (dst src : Addr) (n : Nat) : (s.copyBytes dst src n).cfg = s.cfg := rfl
@[simp] theorem State.copyBytes_eng (dst src : Addr) (n : Nat) : (s.copyBytes dst src n).eng = s.eng := rfl
@[simp] theorem State.copyBytes_regs (dst src : Addr) (n : Nat) : (s.copyBytes dst src n).regs = s.regs := rfl
@[simp] theorem State.copyBytes_nic (dst src : Addr) (n : Nat) : (s.copyBytes dst src n).nic = s.nic := rfl
@[simp] theorem State.copyBytes_mem (dst src : Addr) (n : Nat) :
    (s.copyBytes dst src n).mem = writeBytes s.mem dst (readBytes s.mem src n) := rfl
@[simp] theorem State.copyBytes_maps (dst src : Addr) (n : Nat) : (s.copyBytes dst src n).maps = s.maps := rfl
@[simp] theorem State.copyBytes_mapper (dst src : Addr) (n : Nat) : (s.copyBytes dst src n).mapper = s.mapper := rfl
@[simp] theorem State.copyBytes_mapCount (dst src : Addr) (n : Nat) :
    (s.copyBytes dst src n).mapCount = s.mapCount := rfl
@[simp] theorem State.copyBytes_lockOther (dst src : Addr) (n : Nat) :
    (s.copyBytes dst src n).lockOther = s.lockOther := rfl
@[simp] theorem State.copyBytes_inputs (dst src : Addr) (n : Nat) : (s.copyBytes dst src n).inputs = s.inputs := rfl
@[simp] theorem State.copyBytes_wire (dst src : Addr) (n : Nat) : (s.copyBytes dst src n).wire = s.wire := rfl
@[simp] theorem State.copyBytes_ports (dst src : Addr) (n : Nat) :
    (s.copyBytes dst src n).ports = .copy dst src n :: s.ports := rfl
@[simp] theorem State.copyBytes_reads (dst src : Addr) (n : Nat) : (s.copyBytes dst src n).reads = s.reads := rfl

@[simp] theorem State.mapCall_cfg (va : Addr) (len : Nat) : (s.mapCall va len).cfg = s.cfg := rfl
@[simp] theorem State.mapCall_eng (va : Addr) (len : Nat) : (s.mapCall va len).eng = s.eng := rfl
@[simp] theorem State.mapCall_regs (va : Addr) (len : Nat) : (s.mapCall va len).regs = s.regs := rfl
@[simp] theorem State.mapCall_nic (va : Addr) (len : Nat) : (s.mapCall va len).nic = s.nic := rfl
@[simp] theorem State.mapCall_mem (va : Addr) (len : Nat) : (s.mapCall va len).mem = s.mem := rfl
@[simp] theorem State.mapCall_maps (va : Addr) (len : Nat) : (s.mapCall va len).maps = s.maps := rfl
@[simp] theorem State.mapCall_mapper (va : Addr) (len : Nat) : (s.mapCall va len).mapper = s.mapper.tail := rfl
@[simp] theorem State.mapCall_mapCount (va : Addr) (len : Nat) : (s.mapCall va len).mapCount = s.mapCount + 1 := rfl
@[simp] theorem State.mapCall_lockOther (va : Addr) (len : Nat) : (s.mapCall va len).lockOther = s.lockOther := rfl
@[simp] theorem State.mapCall_inputs (va : Addr) (len : Nat) : (s.mapCall va len).inputs = s.inputs := rfl
@[simp] theorem State.mapCall_wire (va : Addr) (len : Nat) : (s.mapCall va len).wire = s.wire := rfl
@[simp] theorem State.mapCall_ports (va : Addr) (len : Nat) :
    (s.mapCall va len).ports = .map va len s.mapAnswer :: s.ports := rfl
@[simp] theorem State.mapCall_reads (va : Addr) (len : Nat) : (s.mapCall va len).reads = s.reads := rfl

@[simp] theorem State.addMapping_cfg (da va : Addr) (len : Nat) : (s.addMapping da va len).cfg = s.cfg := rfl
@[simp] theorem State.addMapping_eng (da va : Addr) (len : Nat) : (s.addMapping da va len).eng = s.eng := rfl
@[simp] theorem State.addMapping_regs (da va : Addr) (len : Nat) : (s.addMapping da va len).regs = s.regs := rfl
@[simp] theorem State.addMapping_nic (da va : Addr) (len : Nat) : (s.addMapping da va len).nic = s.nic := rfl
@[simp] theorem State.addMapping_mem (da va : Addr) (len : Nat) : (s.addMapping da va len).mem = s.mem := rfl
@[simp] theorem State.addMapping_maps (da va : Addr) (len : Nat) :
    (s.addMapping da va len).maps = { da := da, va := va, len := len } :: s.maps := rfl
@[simp] theorem State.addMapping_mapper (da va : Addr) (len : Nat) : (s.addMapping da va len).mapper = s.mapper := rfl
@[simp] theorem State.addMapping_mapCount (da va : Addr) (len : Nat) :
    (s.addMapping da va len).mapCount = s.mapCount := rfl
@[simp] theorem State.addMapping_lockOther (da va : Addr) (len : Nat) :
    (s.addMapping da va len).lockOther = s.lockOther := rfl
@[simp] theorem State.addMapping_inputs (da va : Addr) (len : Nat) : (s.addMapping da va len).inputs = s.inputs := rfl
@[simp] theorem State.addMapping_wire (da va : Addr) (len : Nat) : (s.addMapping da va len).wire = s.wire := rfl
@[simp] theorem State.addMapping_ports (da va : Addr) (len : Nat) : (s.addMapping da va len).ports = s.ports := rfl
@[simp] theorem State.addMapping_reads (da va : Addr) (len : Nat) : (s.addMapping da va len).reads = s.reads := rfl

@[simp] theorem State.mapTx_cfg (va : Addr) (len : Nat) : (s.mapTx va len).cfg = s.cfg := rfl
@[simp] theorem State.mapTx_eng (va : Addr) (len : Nat) : (s.mapTx va len).eng = s.eng := rfl
@[simp] theorem State.mapTx_regs (va : Addr) (len : Nat) : (s.mapTx va len).regs = s.regs := rfl
@[simp] theorem State.mapTx_nic (va : Addr) (len : Nat) : (s.mapTx va len).nic = s.nic := rfl
@[simp] theorem State.mapTx_mem (va : Addr) (len : Nat) : (s.mapTx va len).mem = s.mem := rfl
@[simp] theorem State.mapTx_maps (va : Addr) (len : Nat) :
    (s.mapTx va len).maps = { da := dev va s.mapAnswer, va := va, len := len } :: s.maps := rfl
@[simp] theorem State.mapTx_mapper (va : Addr) (len : Nat) : (s.mapTx va len).mapper = s.mapper.tail := rfl
@[simp] theorem State.mapTx_mapCount (va : Addr) (len : Nat) : (s.mapTx va len).mapCount = s.mapCount + 1 := rfl
@[simp] theorem State.mapTx_lockOther (va : Addr) (len : Nat) : (s.mapTx va len).lockOther = s.lockOther := rfl
@[simp] theorem State.mapTx_inputs (va : Addr) (len : Nat) : (s.mapTx va len).inputs = s.inputs := rfl
@[simp] theorem State.mapTx_wire (va : Addr) (len : Nat) : (s.mapTx va len).wire = s.wire := rfl
@[simp] theorem State.mapTx_ports (va : Addr) (len : Nat) :
    (s.mapTx va len).ports = .map va len s.mapAnswer :: s.ports := rfl
@[simp] theorem State.mapTx_reads (va : Addr) (len : Nat) : (s.mapTx va len).reads = s.reads := rfl

@[simp] theorem State.unmap_cfg (da : Addr) (len : Nat) : (s.unmap da len).cfg = s.cfg := rfl
@[simp] theorem State.unmap_eng (da : Addr) (len : Nat) : (s.unmap da len).eng = s.eng := rfl
@[simp] theorem State.unmap_regs (da : Addr) (len : Nat) : (s.unmap da len).regs = s.regs := rfl
@[simp] theorem State.unmap_nic (da : Addr) (len : Nat) : (s.unmap da len).nic = s.nic := rfl
@[simp] theorem State.unmap_mem (da : Addr) (len : Nat) : (s.unmap da len).mem = s.mem := rfl
@[simp] theorem State.unmap_maps (da : Addr) (len : Nat) : (s.unmap da len).maps = dropMapping da len s.maps := rfl
@[simp] theorem State.unmap_mapper (da : Addr) (len : Nat) : (s.unmap da len).mapper = s.mapper := rfl
@[simp] theorem State.unmap_mapCount (da : Addr) (len : Nat) : (s.unmap da len).mapCount = s.mapCount := rfl
@[simp] theorem State.unmap_lockOther (da : Addr) (len : Nat) : (s.unmap da len).lockOther = s.lockOther := rfl
@[simp] theorem State.unmap_inputs (da : Addr) (len : Nat) : (s.unmap da len).inputs = s.inputs := rfl
@[simp] theorem State.unmap_wire (da : Addr) (len : Nat) : (s.unmap da len).wire = s.wire := rfl
@[simp] theorem State.unmap_ports (da : Addr) (len : Nat) : (s.unmap da len).ports = .unmap da len :: s.ports := rfl
@[simp] theorem State.unmap_reads (da : Addr) (len : Nat) : (s.unmap da len).reads = s.reads := rfl

@[simp] theorem State.delay_cfg (us : Nat) : (s.delay us).cfg = s.cfg := rfl
@[simp] theorem State.delay_eng (us : Nat) : (s.delay us).eng = s.eng := rfl
@[simp] theorem State.delay_regs (us : Nat) : (s.delay us).regs = s.regs := rfl
@[simp] theorem State.delay_nic (us : Nat) : (s.delay us).nic = s.nic := rfl
@[simp] theorem State.delay_mem (us : Nat) : (s.delay us).mem = s.mem := rfl
@[simp] theorem State.delay_maps (us : Nat) : (s.delay us).maps = s.maps := rfl
@[simp] theorem State.delay_mapper (us : Nat) : (s.delay us).mapper = s.mapper := rfl
@[simp] theorem State.delay_mapCount (us : Nat) : (s.delay us).mapCount = s.mapCount := rfl
@[simp] theorem State.delay_lockOther (us : Nat) : (s.delay us).lockOther = s.lockOther := rfl
@[simp] theorem State.delay_inputs (us : Nat) : (s.delay us).inputs = s.inputs := rfl
@[simp] theorem State.delay_wire (us : Nat) : (s.delay us).wire = s.wire := rfl
@[simp] theorem State.delay_ports (us : Nat) : (s.delay us).ports = .delay us :: s.ports := rfl
@[simp] theorem State.delay_reads (us : Nat) : (s.delay us).reads = s.reads := rfl

@[simp] theorem State.acquire_cfg : s.acquire.cfg = s.cfg := rfl
@[simp] theorem State.acquire_eng : s.acquire.eng = { s.eng with lockHeld := true } := rfl
@[simp] theorem State.acquire_regs : s.acquire.regs = s.regs := rfl
@[simp] theorem State.acquire_nic : s.acquire.nic = s.nic := rfl
@[simp] theorem State.acquire_mem : s.acquire.mem = s.mem := rfl
@[simp] theorem State.acquire_maps : s.acquire.maps = s.maps := rfl
@[simp] theorem State.acquire_mapper : s.acquire.mapper = s.mapper := rfl
@[simp] theorem State.acquire_mapCount : s.acquire.mapCount = s.mapCount := rfl
@[simp] theorem State.acquire_lockOther : s.acquire.lockOther = s.lockOther := rfl
@[simp] theorem State.acquire_inputs : s.acquire.inputs = s.inputs := rfl
@[simp] theorem State.acquire_wire : s.acquire.wire = s.wire := rfl
@[simp] theorem State.acquire_ports : s.acquire.ports = .acquire :: s.ports := rfl
@[simp] theorem State.acquire_reads : s.acquire.reads = s.reads := rfl

@[simp] theorem State.release_cfg : s.release.cfg = s.cfg := rfl
@[simp] theorem State.release_eng : s.release.eng = { s.eng with lockHeld := false } := rfl
@[simp] theorem State.release_regs : s.release.regs = s.regs := rfl
@[simp] theorem State.release_nic : s.release.nic = s.nic := rfl
@[simp] theorem State.release_mem : s.release.mem = s.mem := rfl
@[simp] theorem State.release_maps : s.release.maps = s.maps := rfl
@[simp] theorem State.release_mapper : s.release.mapper = s.mapper := rfl
@[simp] theorem State.release_mapCount : s.release.mapCount = s.mapCount := rfl
@[simp] theorem State.release_lockOther : s.release.lockOther = s.lockOther := rfl
@[simp] theorem State.release_inputs : s.release.inputs = s.inputs := rfl
@[simp] theorem State.release_wire : s.release.wire = s.wire := rfl
@[simp] theorem State.release_ports : s.release.ports = .release :: s.ports := rfl
@[simp] theorem State.release_reads : s.release.reads = s.reads := rfl

@[simp] theorem State.phyRead_cfg : s.phyRead.cfg = s.cfg := rfl
@[simp] theorem State.phyRead_eng : s.phyRead.eng = s.eng := rfl
@[simp] theorem State.phyRead_regs : s.phyRead.regs = s.regs := rfl
@[simp] theorem State.phyRead_nic : s.phyRead.nic = s.nic := rfl
@[simp] theorem State.phyRead_mem : s.phyRead.mem = s.mem := rfl
@[simp] theorem State.phyRead_maps : s.phyRead.maps = s.maps := rfl
@[simp] theorem State.phyRead_mapper : s.phyRead.mapper = s.mapper := rfl
@[simp] theorem State.phyRead_mapCount : s.phyRead.mapCount = s.mapCount := rfl
@[simp] theorem State.phyRead_lockOther : s.phyRead.lockOther = s.lockOther := rfl
@[simp] theorem State.phyRead_inputs : s.phyRead.inputs = s.inputs := rfl
@[simp] theorem State.phyRead_wire : s.phyRead.wire = s.wire := rfl
@[simp] theorem State.phyRead_ports : s.phyRead.ports = .phyRead s.nic.phy :: s.ports := rfl
@[simp] theorem State.phyRead_reads : s.phyRead.reads = s.reads := rfl

@[simp] theorem State.mcastProgram_cfg (list : List Mac) : (s.mcastProgram list).cfg = s.cfg := rfl
@[simp] theorem State.mcastProgram_eng (list : List Mac) : (s.mcastProgram list).eng = s.eng := rfl
@[simp] theorem State.mcastProgram_regs (list : List Mac) : (s.mcastProgram list).regs = s.regs := rfl
@[simp] theorem State.mcastProgram_nic (list : List Mac) :
    (s.mcastProgram list).nic = { s.nic with mcast := list } := rfl
@[simp] theorem State.mcastProgram_mem (list : List Mac) : (s.mcastProgram list).mem = s.mem := rfl
@[simp] theorem State.mcastProgram_maps (list : List Mac) : (s.mcastProgram list).maps = s.maps := rfl
@[simp] theorem State.mcastProgram_mapper (list : List Mac) : (s.mcastProgram list).mapper = s.mapper := rfl
@[simp] theorem State.mcastProgram_mapCount (list : List Mac) : (s.mcastProgram list).mapCount = s.mapCount := rfl
@[simp] theorem State.mcastProgram_lockOther (list : List Mac) : (s.mcastProgram list).lockOther = s.lockOther := rfl
@[simp] theorem State.mcastProgram_inputs (list : List Mac) : (s.mcastProgram list).inputs = s.inputs := rfl
@[simp] theorem State.mcastProgram_wire (list : List Mac) : (s.mcastProgram list).wire = s.wire := rfl
@[simp] theorem State.mcastProgram_ports (list : List Mac) :
    (s.mcastProgram list).ports = .mcast list :: s.ports := rfl
@[simp] theorem State.mcastProgram_reads (list : List Mac) : (s.mcastProgram list).reads = s.reads := rfl

@[simp] theorem State.setTxBinding_cfg (i : Nat) (b : TxBinding) : (s.setTxBinding i b).cfg = s.cfg := rfl
@[simp] theorem State.setTxBinding_eng (i : Nat) (b : TxBinding) :
    (s.setTxBinding i b).eng = { s.eng with txTab := tableSet noTx s.eng.txTab i b } := rfl
@[simp] theorem State.setTxBinding_regs (i : Nat) (b : TxBinding) : (s.setTxBinding i b).regs = s.regs := rfl
@[simp] theorem State.setTxBinding_nic (i : Nat) (b : TxBinding) : (s.setTxBinding i b).nic = s.nic := rfl
@[simp] theorem State.setTxBinding_mem (i : Nat) (b : TxBinding) : (s.setTxBinding i b).mem = s.mem := rfl
@[simp] theorem State.setTxBinding_maps (i : Nat) (b : TxBinding) : (s.setTxBinding i b).maps = s.maps := rfl
@[simp] theorem State.setTxBinding_mapper (i : Nat) (b : TxBinding) : (s.setTxBinding i b).mapper = s.mapper := rfl
@[simp] theorem State.setTxBinding_mapCount (i : Nat) (b : TxBinding) :
    (s.setTxBinding i b).mapCount = s.mapCount := rfl
@[simp] theorem State.setTxBinding_lockOther (i : Nat) (b : TxBinding) :
    (s.setTxBinding i b).lockOther = s.lockOther := rfl
@[simp] theorem State.setTxBinding_inputs (i : Nat) (b : TxBinding) : (s.setTxBinding i b).inputs = s.inputs := rfl
@[simp] theorem State.setTxBinding_wire (i : Nat) (b : TxBinding) : (s.setTxBinding i b).wire = s.wire := rfl
@[simp] theorem State.setTxBinding_ports (i : Nat) (b : TxBinding) : (s.setTxBinding i b).ports = s.ports := rfl
@[simp] theorem State.setTxBinding_reads (i : Nat) (b : TxBinding) : (s.setTxBinding i b).reads = s.reads := rfl

@[simp] theorem State.setRxBinding_cfg (i : Nat) (b : RxBinding) : (s.setRxBinding i b).cfg = s.cfg := rfl
@[simp] theorem State.setRxBinding_eng (i : Nat) (b : RxBinding) :
    (s.setRxBinding i b).eng = { s.eng with rxTab := tableSet noRx s.eng.rxTab i b } := rfl
@[simp] theorem State.setRxBinding_regs (i : Nat) (b : RxBinding) : (s.setRxBinding i b).regs = s.regs := rfl
@[simp] theorem State.setRxBinding_nic (i : Nat) (b : RxBinding) : (s.setRxBinding i b).nic = s.nic := rfl
@[simp] theorem State.setRxBinding_mem (i : Nat) (b : RxBinding) : (s.setRxBinding i b).mem = s.mem := rfl
@[simp] theorem State.setRxBinding_maps (i : Nat) (b : RxBinding) : (s.setRxBinding i b).maps = s.maps := rfl
@[simp] theorem State.setRxBinding_mapper (i : Nat) (b : RxBinding) : (s.setRxBinding i b).mapper = s.mapper := rfl
@[simp] theorem State.setRxBinding_mapCount (i : Nat) (b : RxBinding) :
    (s.setRxBinding i b).mapCount = s.mapCount := rfl
@[simp] theorem State.setRxBinding_lockOther (i : Nat) (b : RxBinding) :
    (s.setRxBinding i b).lockOther = s.lockOther := rfl
@[simp] theorem State.setRxBinding_inputs (i : Nat) (b : RxBinding) : (s.setRxBinding i b).inputs = s.inputs := rfl
@[simp] theorem State.setRxBinding_wire (i : Nat) (b : RxBinding) : (s.setRxBinding i b).wire = s.wire := rfl
@[simp] theorem State.setRxBinding_ports (i : Nat) (b : RxBinding) : (s.setRxBinding i b).ports = s.ports := rfl
@[simp] theorem State.setRxBinding_reads (i : Nat) (b : RxBinding) : (s.setRxBinding i b).reads = s.reads := rfl

@[simp] theorem State.writeTxd_cfg (i : Nat) (r : TxRec) : (s.writeTxd i r).cfg = s.cfg := by
  simp only [State.writeTxd, State.memWrite_cfg]
@[simp] theorem State.writeTxd_eng (i : Nat) (r : TxRec) : (s.writeTxd i r).eng = s.eng := by
  simp only [State.writeTxd, State.memWrite_eng]
@[simp] theorem State.writeTxd_regs (i : Nat) (r : TxRec) : (s.writeTxd i r).regs = s.regs := by
  simp only [State.writeTxd, State.memWrite_regs]
@[simp] theorem State.writeTxd_nic (i : Nat) (r : TxRec) : (s.writeTxd i r).nic = s.nic := by
  simp only [State.writeTxd, State.memWrite_nic]
@[simp] theorem State.writeTxd_mem (i : Nat) (r : TxRec) :
    (s.writeTxd i r).mem = writeBytes s.mem (txSlotAddr s.cfg i) (descBytes (encodeTx s.cfg r)) := by
  simp only [State.writeTxd, State.memWrite_mem]
@[simp] theorem State.writeTxd_maps (i : Nat) (r : TxRec) : (s.writeTxd i r).maps = s.maps := by
  simp only [State.writeTxd, State.memWrite_maps]
@[simp] theorem State.writeTxd_mapper (i : Nat) (r : TxRec) : (s.writeTxd i r).mapper = s.mapper := by
  simp only [State.writeTxd, State.memWrite_mapper]
@[simp] theorem State.writeTxd_mapCount (i : Nat) (r : TxRec) : (s.writeTxd i r).mapCount = s.mapCount := by
  simp only [State.writeTxd, State.memWrite_mapCount]
@[simp] theorem State.writeTxd_lockOther (i : Nat) (r : TxRec) : (s.writeTxd i r).lockOther = s.lockOther := by
  simp only [State.writeTxd, State.memWrite_lockOther]
@[simp] theorem State.writeTxd_inputs (i : Nat) (r : TxRec) : (s.writeTxd i r).inputs = s.inputs := by
  simp only [State.writeTxd, State.memWrite_inputs]
@[simp] theorem State.writeTxd_wire (i : Nat) (r : TxRec) : (s.writeTxd i r).wire = s.wire := by
  simp only [State.writeTxd, State.memWrite_wire]
@[simp] theorem State.writeTxd_ports (i : Nat) (r : TxRec) :
    (s.writeTxd i r).ports = .memWrite (txSlotAddr s.cfg i) (descBytes (encodeTx s.cfg r)) :: s.ports := by
  simp only [State.writeTxd, State.memWrite_ports]
@[simp] theorem State.writeTxd_reads (i : Nat) (r : TxRec) : (s.writeTxd i r).reads = s.reads := by
  simp only [State.writeTxd, State.memWrite_reads]

@[simp] theorem State.writeRxd_cfg (i : Nat) (r : RxRec) : (s.writeRxd i r).cfg = s.cfg := by
  simp only [State.writeRxd, State.memWrite_cfg]
@[simp] theorem State.writeRxd_eng (i : Nat) (r : RxRec) : (s.writeRxd i r).eng = s.eng := by
  simp only [State.writeRxd, State.memWrite_eng]
@[simp] theorem State.writeRxd_regs (i : Nat) (r : RxRec) : (s.writeRxd i r).regs = s.regs := by
  simp only [State.writeRxd, State.memWrite_regs]
@[simp] theorem State.writeRxd_nic (i : Nat) (r : RxRec) : (s.writeRxd i r).nic = s.nic := by
  simp only [State.writeRxd, State.memWrite_nic]
@[simp] theorem State.writeRxd_mem (i : Nat) (r : RxRec) :
    (s.writeRxd i r).mem = writeBytes s.mem (rxSlotAddr s.cfg i) (descBytes (encodeRx s.cfg r)) := by
  simp only [State.writeRxd, State.memWrite_mem]
@[simp] theorem State.writeRxd_maps (i : Nat) (r : RxRec) : (s.writeRxd i r).maps = s.maps := by
  simp only [State.writeRxd, State.memWrite_maps]
@[simp] theorem State.writeRxd_mapper (i : Nat) (r : RxRec) : (s.writeRxd i r).mapper = s.mapper := by
  simp only [State.writeRxd, State.memWrite_mapper]
@[simp] theorem State.writeRxd_mapCount (i : Nat) (r : RxRec) : (s.writeRxd i r).mapCount = s.mapCount := by
  simp only [State.writeRxd, State.memWrite_mapCount]
@[simp] theorem State.writeRxd_lockOther (i : Nat) (r : RxRec) : (s.writeRxd i r).lockOther = s.lockOther := by
  simp only [State.writeRxd, State.memWrite_lockOther]
@[simp] theorem State.writeRxd_inputs (i : Nat) (r : RxRec) : (s.writeRxd i r).inputs = s.inputs := by
  simp only [State.writeRxd, State.memWrite_inputs]
@[simp] theorem State.writeRxd_wire (i : Nat) (r : RxRec) : (s.writeRxd i r).wire = s.wire := by
  simp only [State.writeRxd, State.memWrite_wire]
@[simp] theorem State.writeRxd_ports (i : Nat) (r : RxRec) :
    (s.writeRxd i r).ports = .memWrite (rxSlotAddr s.cfg i) (descBytes (encodeRx s.cfg r)) :: s.ports := by
  simp only [State.writeRxd, State.memWrite_ports]
@[simp] theorem State.writeRxd_reads (i : Nat) (r : RxRec) : (s.writeRxd i r).reads = s.reads := by
  simp only [State.writeRxd, State.memWrite_reads]

@[simp] theorem State.setRes2_cfg (v : Word) : (s.setRes2 v).cfg = s.cfg := rfl
@[simp] theorem State.setRes2_eng (v : Word) : (s.setRes2 v).eng = s.eng := rfl
@[simp] theorem State.setRes2_regs (v : Word) : (s.setRes2 v).regs = { s.regs with res2 := v } := rfl
@[simp] theorem State.setRes2_nic (v : Word) : (s.setRes2 v).nic = s.nic := rfl
@[simp] theorem State.setRes2_mem (v : Word) : (s.setRes2 v).mem = s.mem := rfl
@[simp] theorem State.setRes2_maps (v : Word) : (s.setRes2 v).maps = s.maps := rfl
@[simp] theorem State.setRes2_mapper (v : Word) : (s.setRes2 v).mapper = s.mapper := rfl
@[simp] theorem State.setRes2_mapCount (v : Word) : (s.setRes2 v).mapCount = s.mapCount := rfl
@[simp] theorem State.setRes2_lockOther (v : Word) : (s.setRes2 v).lockOther = s.lockOther := rfl
@[simp] theorem State.setRes2_inputs (v : Word) : (s.setRes2 v).inputs = s.inputs := rfl
@[simp] theorem State.setRes2_wire (v : Word) : (s.setRes2 v).wire = s.wire := rfl
@[simp] theorem State.setRes2_ports (v : Word) : (s.setRes2 v).ports = s.ports := rfl
@[simp] theorem State.setRes2_reads (v : Word) : (s.setRes2 v).reads = s.reads := rfl

@[simp] theorem State.setLink_cfg (x : LinkState) : (s.setLink x).cfg = s.cfg := rfl
@[simp] theorem State.setLink_eng (x : LinkState) : (s.setLink x).eng = { s.eng with link := x } := rfl
@[simp] theorem State.setLink_regs (x : LinkState) : (s.setLink x).regs = s.regs := rfl
@[simp] theorem State.setLink_nic (x : LinkState) : (s.setLink x).nic = s.nic := rfl
@[simp] theorem State.setLink_mem (x : LinkState) : (s.setLink x).mem = s.mem := rfl
@[simp] theorem State.setLink_maps (x : LinkState) : (s.setLink x).maps = s.maps := rfl
@[simp] theorem State.setLink_mapper (x : LinkState) : (s.setLink x).mapper = s.mapper := rfl
@[simp] theorem State.setLink_mapCount (x : LinkState) : (s.setLink x).mapCount = s.mapCount := rfl
@[simp] theorem State.setLink_lockOther (x : LinkState) : (s.setLink x).lockOther = s.lockOther := rfl
@[simp] theorem State.setLink_inputs (x : LinkState) : (s.setLink x).inputs = s.inputs := rfl
@[simp] theorem State.setLink_wire (x : LinkState) : (s.setLink x).wire = s.wire := rfl
@[simp] theorem State.setLink_ports (x : LinkState) : (s.setLink x).ports = s.ports := rfl
@[simp] theorem State.setLink_reads (x : LinkState) : (s.setLink x).reads = s.reads := rfl

@[simp] theorem State.setMcastTable_cfg (list : List Mac) : (s.setMcastTable list).cfg = s.cfg := rfl
@[simp] theorem State.setMcastTable_eng (list : List Mac) :
    (s.setMcastTable list).eng = { s.eng with mcTable := setMcast s.eng.mcTable 0 list, mcCount := BitVec.ofNat 8 list.length } := rfl
@[simp] theorem State.setMcastTable_regs (list : List Mac) : (s.setMcastTable list).regs = s.regs := rfl
@[simp] theorem State.setMcastTable_nic (list : List Mac) : (s.setMcastTable list).nic = s.nic := rfl
@[simp] theorem State.setMcastTable_mem (list : List Mac) : (s.setMcastTable list).mem = s.mem := rfl
@[simp] theorem State.setMcastTable_maps (list : List Mac) : (s.setMcastTable list).maps = s.maps := rfl
@[simp] theorem State.setMcastTable_mapper (list : List Mac) : (s.setMcastTable list).mapper = s.mapper := rfl
@[simp] theorem State.setMcastTable_mapCount (list : List Mac) : (s.setMcastTable list).mapCount = s.mapCount := rfl
@[simp] theorem State.setMcastTable_lockOther (list : List Mac) :
    (s.setMcastTable list).lockOther = s.lockOther := rfl
@[simp] theorem State.setMcastTable_inputs (list : List Mac) : (s.setMcastTable list).inputs = s.inputs := rfl
@[simp] theorem State.setMcastTable_wire (list : List Mac) : (s.setMcastTable list).wire = s.wire := rfl
@[simp] theorem State.setMcastTable_ports (list : List Mac) : (s.setMcastTable list).ports = s.ports := rfl
@[simp] theorem State.setMcastTable_reads (list : List Mac) : (s.setMcastTable list).reads = s.reads := rfl

@[simp] theorem State.setReport_cfg (r : RxReport) : (s.setReport r).cfg = s.cfg := rfl
@[simp] theorem State.setReport_eng (r : RxReport) : (s.setReport r).eng = s.eng := rfl
@[simp] theorem State.setReport_regs (r : RxReport) :
    (s.setReport r).regs =
      { s.regs with
        res0 := r.dst.setWidth 64
        res1 := r.src.setWidth 64
        res2 := BitVec.ofNat 32 r.copied
        res3 := r.length.setWidth 32
        res4 := res4Word r.etype r.kind } := rfl
@[simp] theorem State.setReport_nic (r : RxReport) : (s.setReport r).nic = s.nic := rfl
@[simp] theorem State.setReport_mem (r : RxReport) : (s.setReport r).mem = s.mem := rfl
@[simp] theorem State.setReport_maps (r : RxReport) : (s.setReport r).maps = s.maps := rfl
@[simp] theorem State.setReport_mapper (r : RxReport) : (s.setReport r).mapper = s.mapper := rfl
@[simp] theorem State.setReport_mapCount (r : RxReport) : (s.setReport r).mapCount = s.mapCount := rfl
@[simp] theorem State.setReport_lockOther (r : RxReport) : (s.setReport r).lockOther = s.lockOther := rfl
@[simp] theorem State.setReport_inputs (r : RxReport) : (s.setReport r).inputs = s.inputs := rfl
@[simp] theorem State.setReport_wire (r : RxReport) : (s.setReport r).wire = s.wire := rfl
@[simp] theorem State.setReport_ports (r : RxReport) : (s.setReport r).ports = s.ports := rfl
@[simp] theorem State.setReport_reads (r : RxReport) : (s.setReport r).reads = s.reads := rfl

@[simp] theorem State.overrun_cfg : s.overrun.cfg = s.cfg := rfl
@[simp] theorem State.overrun_eng : s.overrun.eng = { s.eng with ovr := true } := rfl
@[simp] theorem State.overrun_regs : s.overrun.regs = s.regs := rfl
@[simp] theorem State.overrun_nic : s.overrun.nic = s.nic := rfl
@[simp] theorem State.overrun_mem : s.overrun.mem = s.mem := rfl
@[simp] theorem State.overrun_maps : s.overrun.maps = s.maps := rfl
@[simp] theorem State.overrun_mapper : s.overrun.mapper = s.mapper := rfl
@[simp] theorem State.overrun_mapCount : s.overrun.mapCount = s.mapCount := rfl
@[simp] theorem State.overrun_lockOther : s.overrun.lockOther = s.lockOther := rfl
@[simp] theorem State.overrun_inputs : s.overrun.inputs = s.inputs := rfl
@[simp] theorem State.overrun_wire : s.overrun.wire = s.wire := rfl
@[simp] theorem State.overrun_ports : s.overrun.ports = s.ports := rfl
@[simp] theorem State.overrun_reads : s.overrun.reads = s.reads := rfl

@[simp] theorem State.startCmd_cfg (w : Word) : (s.startCmd w).cfg = s.cfg := rfl
@[simp] theorem State.startCmd_eng (w : Word) :
    (s.startCmd w).eng = { s.eng with seq := .running { word := w, arg0 := s.regs.arg0, arg1 := s.regs.arg1, arg2 := s.regs.arg2 } .decode } := rfl
@[simp] theorem State.startCmd_regs (w : Word) :
    (s.startCmd w).regs = { s.regs with res0 := 0, res1 := 0, res2 := 0, res3 := 0, res4 := 0 } := rfl
@[simp] theorem State.startCmd_nic (w : Word) : (s.startCmd w).nic = s.nic := rfl
@[simp] theorem State.startCmd_mem (w : Word) : (s.startCmd w).mem = s.mem := rfl
@[simp] theorem State.startCmd_maps (w : Word) : (s.startCmd w).maps = s.maps := rfl
@[simp] theorem State.startCmd_mapper (w : Word) : (s.startCmd w).mapper = s.mapper := rfl
@[simp] theorem State.startCmd_mapCount (w : Word) : (s.startCmd w).mapCount = s.mapCount := rfl
@[simp] theorem State.startCmd_lockOther (w : Word) : (s.startCmd w).lockOther = s.lockOther := rfl
@[simp] theorem State.startCmd_inputs (w : Word) : (s.startCmd w).inputs = s.inputs := rfl
@[simp] theorem State.startCmd_wire (w : Word) : (s.startCmd w).wire = s.wire := rfl
@[simp] theorem State.startCmd_ports (w : Word) : (s.startCmd w).ports = s.ports := rfl
@[simp] theorem State.startCmd_reads (w : Word) : (s.startCmd w).reads = s.reads := rfl

@[simp] theorem State.setStarted_cfg (q : Queue) (on : Bool) : (s.setStarted q on).cfg = s.cfg := by
  cases q <;> rfl
@[simp] theorem State.setStarted_regs (q : Queue) (on : Bool) : (s.setStarted q on).regs = s.regs := by
  cases q <;> rfl
@[simp] theorem State.setStarted_nic (q : Queue) (on : Bool) : (s.setStarted q on).nic = s.nic := by
  cases q <;> rfl
@[simp] theorem State.setStarted_mem (q : Queue) (on : Bool) : (s.setStarted q on).mem = s.mem := by
  cases q <;> rfl
@[simp] theorem State.setStarted_maps (q : Queue) (on : Bool) : (s.setStarted q on).maps = s.maps := by
  cases q <;> rfl
@[simp] theorem State.setStarted_mapper (q : Queue) (on : Bool) : (s.setStarted q on).mapper = s.mapper := by
  cases q <;> rfl
@[simp] theorem State.setStarted_mapCount (q : Queue) (on : Bool) : (s.setStarted q on).mapCount = s.mapCount := by
  cases q <;> rfl
@[simp] theorem State.setStarted_lockOther (q : Queue) (on : Bool) : (s.setStarted q on).lockOther = s.lockOther := by
  cases q <;> rfl
@[simp] theorem State.setStarted_inputs (q : Queue) (on : Bool) : (s.setStarted q on).inputs = s.inputs := by
  cases q <;> rfl
@[simp] theorem State.setStarted_wire (q : Queue) (on : Bool) : (s.setStarted q on).wire = s.wire := by
  cases q <;> rfl
@[simp] theorem State.setStarted_ports (q : Queue) (on : Bool) : (s.setStarted q on).ports = s.ports := by
  cases q <;> rfl
@[simp] theorem State.setStarted_reads (q : Queue) (on : Bool) : (s.setStarted q on).reads = s.reads := by
  cases q <;> rfl

end Sys2Proof.Machine
end

