-- ==== Sys2Proof/Laws/Outer.lean ====
section
/-! SUPPORT. What no step of the engine touches: the configuration, the inputs still to come, the other holders of the lock, the
frames on the wire and the host's reads. -/

namespace Sys2Proof.Machine

theorem State.SameOuter.refl (s : State) : s.SameOuter s := ⟨rfl, rfl, rfl, rfl, rfl⟩

theorem State.SameOuter.trans {s t u : State} (h : s.SameOuter t) (k : t.SameOuter u) : s.SameOuter u :=
  ⟨k.cfg.trans h.cfg, k.inputs.trans h.inputs, k.lockOther.trans h.lockOther, k.wire.trans h.wire,
    k.reads.trans h.reads⟩

section
variable (l : Latch) (s : State)

theorem finish_outer (c : Status) : s.SameOuter (s.finish c) := by constructor <;> simp
theorem refuse_outer : s.SameOuter s.refuse := by constructor <;> simp
theorem goto_outer (p : Point) : s.SameOuter (s.goto l p) := by constructor <;> simp

theorem initStart_outer : s.SameOuter (initStart l s) := by
  unfold initStart; split <;> constructor <;> simp

theorem initStep_outer (p : InitPoint) : s.SameOuter (initStep l p s) := by
  cases p with
  | txSlot i => constructor <;> simp [initStep, initTxSlot]
  | mapBuf i =>
    simp only [initStep, initMapBuf]
    split
    · split <;> constructor <;> simp
    · constructor <;> simp
  | rxSlot i => constructor <;> simp [initStep, initRxSlot]
  | undo j => simp only [initStep, initUndo]; split <;> constructor <;> simp
  | program k =>
    simp only [initStep, initProgram, initDone, clearIntMask]
    split
    · constructor <;> simp
    · split <;> split <;> constructor <;> simp

theorem sendStart_outer : s.SameOuter (sendStart l s) := by
  unfold sendStart; split
  · constructor <;> simp
  · split <;> constructor <;> simp

theorem sendfStart_outer : s.SameOuter (sendfStart l s) := by
  unfold sendfStart; split <;> constructor <;> simp

theorem pushDesc_outer (va : Addr) (len : Half) (da : Addr) (cmd : Byte) (tag : Half) :
    s.SameOuter (pushDesc s va len da cmd tag) := by
  constructor <;> simp [pushDesc]

theorem acquireOrWait_outer (p : Point) : s.SameOuter (acquireOrWait l p s) := by
  unfold acquireOrWait; split <;> constructor <;> simp

theorem fragsRead_outer (es : List (Option Frag)) : s.SameOuter (fragsRead l es s) := by
  unfold fragsRead; split
  · constructor <;> simp
  · constructor <;> simp
  · split <;> constructor <;> simp

theorem txStep_outer (p : TxPoint) : s.SameOuter (txStep l p s) := by
  cases p with
  | sendMap => constructor <;> simp [txStep, sendMap]
  | sendAcquire da => exact acquireOrWait_outer l s _
  | sendWrite da => exact (pushDesc_outer s _ _ _ _ _).trans (goto_outer _ _ _)
  | fragRead acc =>
    simp only [txStep, fragRead]
    split
    · constructor <;> simp
    · exact State.SameOuter.trans (t := s.memRead _ _) (by constructor <;> simp) (fragsRead_outer l _ _)
  | fragMap f todo done => constructor <;> simp [txStep, fragMap]
  | fragAcquire f rest => exact acquireOrWait_outer l s _
  | fragWrite f rest => exact (pushDesc_outer s _ _ _ _ _).trans (goto_outer _ _ _)
  | tail slot => constructor <;> simp [txStep, txTail]
  | unlock slot =>
    simp only [txStep, txUnlock]
    split
    · split <;> constructor <;> simp
    · constructor <;> simp
  | waitRead slot k =>
    simp only [txStep, waitRead]
    split
    · constructor <;> simp
    · split <;> constructor <;> simp
  | waitDelay slot k => constructor <;> simp [txStep, waitDelay]

theorem reclaimStart_outer : s.SameOuter (reclaimStart l s) := by
  unfold reclaimStart; split
  · constructor <;> simp
  · split <;> constructor <;> simp

theorem reclaimNext_outer (h : Word) (k : Nat) : s.SameOuter (reclaimNext l h k s) := by
  unfold reclaimNext
  split
  · constructor <;> simp
  · split
    · constructor <;> simp
    · split <;> constructor <;> simp

theorem reclaimStep_outer (p : ReclaimPoint) : s.SameOuter (reclaimStep l p s) := by
  cases p with
  | head =>
    simp only [reclaimStep, reclaimHead]
    split
    · constructor <;> simp
    · split
      · exact State.SameOuter.trans (t := s.regRead .tdh) (by constructor <;> simp) (reclaimNext_outer l _ _ _)
      · constructor <;> simp
  | read h k => simp only [reclaimStep, reclaimRead]; split <;> constructor <;> simp
  | unmap h k d => constructor <;> simp [reclaimStep, reclaimUnmap]
  | output h k d => constructor <;> simp [reclaimStep, reclaimOutput]
  | clear h k d =>
    simp only [reclaimStep, reclaimClear]
    refine State.SameOuter.trans ?_ (reclaimNext_outer l _ _ _)
    constructor <;> simp

theorem pollStart_outer : s.SameOuter (pollStart l s) := by
  unfold pollStart; split <;> constructor <;> simp

theorem countTrunc_outer (len : Half) (n : Nat) : s.SameOuter (countTrunc s len n) := by
  unfold countTrunc; split <;> constructor <;> simp

theorem rxStep_outer (p : RxPoint) : s.SameOuter (rxStep l p s) := by
  cases p with
  | read =>
    simp only [rxStep, pollRead]
    have h1 : s.SameOuter (s.memRead (rxSlotAddr s.cfg s.eng.rxC.toNat) 16) := by constructor <;> simp
    split
    · exact h1.trans (finish_outer _ _)
    · split
      · exact h1.trans (goto_outer _ _ _)
      · split
        · exact h1.trans (goto_outer _ _ _)
        · exact (h1.trans (countTrunc_outer _ _ _)).trans (goto_outer _ _ _)
  | copy len n =>
    exact (State.SameOuter.trans (t := s.copyBytes _ _ _) (by constructor <;> simp)
      (countTrunc_outer _ _ _)).trans (goto_outer _ _ _)
  | header len n => constructor <;> simp [rxStep, pollHeader]
  | rearm r => constructor <;> simp [rxStep, pollRearm]
  | tail r =>
    simp only [rxStep, pollTail]
    split <;> constructor <;> simp

theorem linkUpSeen_outer : s.SameOuter (linkUpSeen l s) := by
  unfold linkUpSeen linkUpDone; split <;> constructor <;> simp

theorem linkFailed_outer : s.SameOuter (linkFailed s) := by
  unfold linkFailed; constructor <;> simp

theorem windowOver_outer : s.SameOuter (windowOver l s) := by
  unfold windowOver
  split
  · exact linkFailed_outer s
  · split
    · constructor <;> simp
    · exact linkFailed_outer s

theorem linkStart_outer : s.SameOuter (linkStart l s) := by
  unfold linkStart
  split
  · have h1 : s.SameOuter (s.setLink .negotiating) := by constructor <;> simp
    dsimp only
    split
    · exact h1.trans (goto_outer _ _ _)
    · exact h1.trans (windowOver_outer _ _)
  · constructor <;> simp

theorem startRetry_outer : s.SameOuter (startRetry l s) := by
  unfold startRetry
  have h1 : s.SameOuter (s.setLink .downshiftRetry) := by constructor <;> simp
  dsimp only
  split
  · exact h1.trans (goto_outer _ _ _)
  · exact h1.trans (linkFailed_outer _)

theorem linkStep_outer (p : LinkPoint) : s.SameOuter (linkStep l p s) := by
  have h1 : s.SameOuter (s.regRead .status) := by constructor <;> simp
  have h2 : s.SameOuter s.phyRead := by constructor <;> simp
  cases p with
  | read k =>
    simp only [linkStep, linkRead]
    split
    · exact h1.trans (linkUpSeen_outer _ _)
    · split
      · exact h1.trans (goto_outer _ _ _)
      · exact h1.trans (windowOver_outer _ _)
  | delay k => constructor <;> simp [linkStep, linkDelay]
  | phyRead k =>
    simp only [linkStep, linkPhyRead]
    split
    · exact h2.trans (startRetry_outer _ _)
    · split
      · exact h2.trans (goto_outer _ _ _)
      · exact h2.trans (linkFailed_outer _)
  | phyDelay k => constructor <;> simp [linkStep, linkPhyDelay]
  | retryDelay k => constructor <;> simp [linkStep, linkRetryDelay]
  | retryRead k =>
    simp only [linkStep, linkRetryRead]
    split
    · exact h1.trans (linkUpSeen_outer _ _)
    · split
      · exact h1.trans (goto_outer _ _ _)
      · exact h1.trans (linkFailed_outer _)
  | settle => constructor <;> simp [linkStep, linkSettle, linkUpDone]

theorem startQueue_outer (q : Queue) (r : Return) : s.SameOuter (startQueue l q r s) := by
  unfold startQueue; split <;> constructor <;> simp

theorem stopQueue_outer (q : Queue) (r : Return) : s.SameOuter (stopQueue l q r s) := by
  unfold stopQueue; constructor <;> simp

theorem maskStep_outer (p : MaskPoint) : s.SameOuter (maskStep l p s) := by
  cases p <;> constructor <;> simp [maskStep]

theorem filterEnd_outer (late : Bool) : s.SameOuter (filterEnd l late s) := by
  unfold filterEnd
  split
  · dsimp only
    split
    · constructor <;> simp
    · exact State.SameOuter.trans (by constructor <;> simp) (startQueue_outer l _ _ _)
  · dsimp only
    split
    · exact State.SameOuter.trans (by constructor <;> simp) (stopQueue_outer l _ _ _)
    · constructor <;> simp

theorem filterListed_outer (list : Option (List Mac)) (late : Bool) :
    s.SameOuter (filterListed l list late s) := by
  unfold filterListed
  split
  · split
    · exact goto_outer _ _ _
    · exact filterEnd_outer _ _ _
  · split
    · constructor <;> simp
    · split
      · exact goto_outer _ _ _
      · exact filterEnd_outer _ _ _

theorem filterList_outer (late : Bool) : s.SameOuter (filterList l late s) := by
  unfold filterList
  split
  · split
    · exact goto_outer _ _ _
    · exact filterListed_outer _ _ _ _
  · exact filterListed_outer _ _ _ _

theorem filterStart_outer : s.SameOuter (filterStart l s) := by
  unfold filterStart
  split
  · exact refuse_outer s
  · split
    · exact goto_outer _ _ _
    · exact filterList_outer _ _ _

theorem changeMade_outer (x : Change) (was late : Bool) : s.SameOuter (changeMade l x was late s) := by
  unfold changeMade
  split
  · exact startQueue_outer _ _ _ _
  · exact goto_outer _ _ _

theorem filterStep_outer (p : FilterPoint) : s.SameOuter (filterStep l p s) := by
  cases p with
  | acquire x late =>
    have h1 : s.SameOuter s.acquire := by constructor <;> simp
    simp only [filterStep, filterAcquire]
    split
    · exact State.SameOuter.refl s
    · split
      · exact h1.trans (stopQueue_outer _ _ _ _)
      · exact h1.trans (goto_outer _ _ _)
  | ctrlRead was late => constructor <;> simp [filterStep, filterCtrlRead]
  | ctrlWrite v was late =>
    exact State.SameOuter.trans (t := s.regWrite _ _) (by constructor <;> simp) (changeMade_outer _ _ _ _ _)
  | program was late =>
    exact State.SameOuter.trans (t := s.mcastProgram _) (by constructor <;> simp) (changeMade_outer _ _ _ _ _)
  | release x late =>
    have h1 : s.SameOuter s.release := by constructor <;> simp
    simp only [filterStep, filterRelease]
    split
    · exact h1.trans (filterList_outer _ _ _)
    · exact h1.trans (filterEnd_outer _ _ _)
  | listRead acc late =>
    have h1 : s.SameOuter (s.memRead (entryAddr l.arg0 6 acc.length) 6) := by constructor <;> simp
    simp only [filterStep, filterListRead]
    split
    · exact h1.trans (goto_outer _ _ _)
    · exact h1.trans (filterListed_outer _ _ _ _)

theorem returnTo_outer (r : Return) (timedOut : Bool) : s.SameOuter (returnTo l r timedOut s) := by
  unfold returnTo; split <;> constructor <;> simp

theorem queueStep_outer (p : QueuePoint) : s.SameOuter (queueStep l p s) := by
  cases p with
  | onRead q r => constructor <;> simp [queueStep, onRead]
  | onWrite q v r =>
    have h1 : s.SameOuter (s.regWrite (queueReg q) (v ||| s.cfg.bQen)) := by constructor <;> simp
    simp only [queueStep, onWrite]
    split
    · exact h1.trans (goto_outer _ _ _)
    · exact h1.trans (returnTo_outer _ _ _ _)
  | onPoll q k r =>
    have h1 : s.SameOuter (s.regRead (queueReg q)) := by constructor <;> simp
    simp only [queueStep, onPoll]
    split
    · exact h1.trans (goto_outer _ _ _)
    · split
      · exact h1.trans (goto_outer _ _ _)
      · exact h1.trans (returnTo_outer _ _ _ _)
  | onDelay q k r => constructor <;> simp [queueStep, onDelay]
  | enableRead q r => constructor <;> simp [queueStep, enableRead]
  | enableWrite q v r =>
    refine State.SameOuter.trans (t := (s.regWrite (unitReg q) (v ||| unitBit s.cfg q)).setStarted q true) ?_
      (returnTo_outer _ _ _ _)
    constructor <;> simp
  | disableRead q r => constructor <;> simp [queueStep, disableRead]
  | disableWrite q v r =>
    have h1 : s.SameOuter ((s.regWrite (unitReg q) (v &&& ~~~unitBit s.cfg q)).setStarted q false) := by
      constructor <;> simp
    simp only [queueStep, disableWrite]
    split
    · exact h1.trans (goto_outer _ _ _)
    · exact h1.trans (returnTo_outer _ _ _ _)
  | offRead q r => constructor <;> simp [queueStep, offRead]
  | offWrite q v r =>
    have h1 : s.SameOuter (s.regWrite (queueReg q) (v &&& ~~~s.cfg.bQen)) := by constructor <;> simp
    simp only [queueStep, offWrite]
    split
    · exact h1.trans (goto_outer _ _ _)
    · exact h1.trans (returnTo_outer _ _ _ _)
  | offPoll q k r =>
    have h1 : s.SameOuter (s.regRead (queueReg q)) := by constructor <;> simp
    simp only [queueStep, offPoll]
    split
    · exact h1.trans (returnTo_outer _ _ _ _)
    · split
      · exact h1.trans (goto_outer _ _ _)
      · exact h1.trans (returnTo_outer _ _ _ _)
  | offDelay q k r => constructor <;> simp [queueStep, offDelay]

theorem startInstr_outer (i : Instr) : s.SameOuter (startInstr l i s) := by
  cases i with
  | init n => exact initStart_outer l s
  | txSend b v => exact sendStart_outer l s
  | txSendf b v f => exact sendfStart_outer l s
  | txReclaim m => exact reclaimStart_outer l s
  | rxPoll => exact pollStart_outer l s
  | linkWait cd => exact linkStart_outer l s
  | filterSet mcl m => exact filterStart_outer l s
  | intMask => exact goto_outer _ _ _
  | rxEnable => exact startQueue_outer _ _ _ _
  | rxDisable => exact stopQueue_outer _ _ _ _
  | txqEnable => exact startQueue_outer _ _ _ _
  | txqDisable => exact stopQueue_outer _ _ _ _

theorem decodeStep_outer : s.SameOuter (decodeStep l s) := by
  unfold decodeStep
  split
  · exact finish_outer _ _
  · split
    · exact refuse_outer s
    · split
      · exact refuse_outer s
      · exact startInstr_outer _ _ _

/-- No step of the engine touches the configuration, the inputs, the other lock holders, the wire or the host's reads. -/
theorem engineStep_outer (p : Point) : s.SameOuter (engineStep l p s) := by
  cases p with
  | decode => exact decodeStep_outer l s
  | init q => exact initStep_outer l s q
  | tx q => exact txStep_outer l s q
  | reclaim q => exact reclaimStep_outer l s q
  | rx q => exact rxStep_outer l s q
  | link q => exact linkStep_outer l s q
  | filter q => exact filterStep_outer l s q
  | mask q => exact maskStep_outer l s q
  | queue q => exact queueStep_outer l s q

end

theorem engineTurn_outer (s : State) : s.SameOuter s.engineTurn := by
  unfold State.engineTurn
  split
  · exact State.SameOuter.refl s
  · exact engineStep_outer _ _ _

end Sys2Proof.Machine
end

