-- ==== Sys2Proof/Laws/PerInstr.lean ====
section
/-! SUPPORT. Per command: the encoder's word has the fixed bits of its row of spec/opcode_table.json. -/

namespace Sys2Proof.Laws.Encoding

/-- The column `mask` of the opcode table: the bits that are fixed. -/
def fixedBits : Instr → Word
  | .init _ => 0x0000FFFF
  | .txSend _ _ => 0xFFFFFCFF
  | .txSendf _ _ _ => 0x0000FCFF
  | .txReclaim _ => 0x0000FFFF
  | .rxPoll => 0xFFFFFFFF
  | .linkWait _ => 0xFFFFFEFF
  | .filterSet _ _ => 0xFFE0FEFF
  | .intMask => 0xFFFFFFFF
  | .rxEnable => 0xFFFFFFFF
  | .rxDisable => 0xFFFFFFFF
  | .txqEnable => 0xFFFFFFFF
  | .txqDisable => 0xFFFFFFFF

/-- The column `match` of the opcode table: the values of the fixed bits. -/
def fixedValue : Instr → Word
  | .init _ => 0x00000001
  | .txSend _ _ => 0x00000010
  | .txSendf _ _ _ => 0x00000011
  | .txReclaim _ => 0x00000012
  | .rxPoll => 0x00000020
  | .linkWait _ => 0x00000030
  | .filterSet _ _ => 0x00000040
  | .intMask => 0x00000041
  | .rxEnable => 0x00000050
  | .rxDisable => 0x00000051
  | .txqEnable => 0x00000052
  | .txqDisable => 0x00000053

/-- A well-formed command's word has the fixed bits of its row. -/
def Statement (i : Instr) : Prop := i.wf = true → encode i &&& fixedBits i = fixedValue i

/-- Fixed bits that leave the immediate free see only the low half of the word. -/
theorem low_half (opc : BitVec 8) (f0 f1 : Bool) (imm : Half) (k : Half) :
    cmdWord opc f0 f1 imm &&& (0#16 ++ k) = 0#16 ++ ((0#6 ++ BitVec.ofBool f1 ++ BitVec.ofBool f0 ++ opc) &&& k) := by
  apply BitVec.eq_of_getLsbD_eq
  intro i hi
  simp only [cmdWord, BitVec.getLsbD_and, BitVec.getLsbD_append, BitVec.getLsbD_zero]
  split_ifs <;> first | rfl | omega | simp_all

theorem init (n : Half) : Statement (.init n) := fun _ => low_half 0x01#8 false false n 0xFFFF#16

theorem txSend (block vle : Bool) : Statement (.txSend block vle) := by
  intro _; revert block vle; decide

theorem txSendf (block vle : Bool) (frags : Half) : Statement (.txSendf block vle frags) := by
  intro _
  refine (low_half 0x11#8 block vle frags 0xFCFF#16).trans ?_
  change _ = (0x00000011 : Word)
  clear * - block vle
  revert block vle; decide

theorem txReclaim (max : Half) : Statement (.txReclaim max) := fun _ => low_half 0x12#8 false false max 0xFFFF#16

theorem rxPoll : Statement .rxPoll := fun _ => by decide

theorem linkWait (cd : Bool) : Statement (.linkWait cd) := by
  intro _; revert cd; decide

theorem filterSet (mcl : Bool) (mask : Half) : Statement (.filterSet mcl mask) := by
  intro h
  obtain ⟨m, rfl⟩ : ∃ m : BitVec 5, mask = m.setWidth 16 :=
    ⟨mask.setWidth 5, BitVec.eq_of_toNat_eq (by simp [Instr.wf] at h ⊢; omega)⟩
  clear h
  revert mcl m; decide

theorem intMask : Statement .intMask := fun _ => by decide

theorem rxEnable : Statement .rxEnable := fun _ => by decide

theorem rxDisable : Statement .rxDisable := fun _ => by decide

theorem txqEnable : Statement .txqEnable := fun _ => by decide

theorem txqDisable : Statement .txqDisable := fun _ => by decide

end Sys2Proof.Laws.Encoding
end

