-- ==== Sys2Proof/Laws/Run.lean ====
section
/-! SUPPORT. How a command runs: the moves, the run, and the one argument behind every invariant. -/

namespace Sys2Proof.Machine

theorem run_zero (s : State) : State.run 0 s = s := rfl

theorem run_settled {s : State} (h : s.settled = true) : ∀ n, State.run n s = s
  | 0 => rfl
  | n + 1 => by simp [State.run, h]

theorem run_succ {s : State} (h : s.settled = false) (n : Nat) : State.run (n + 1) s = State.run n s.turn := by
  simp [State.run, h]

theorem run_add (m : Nat) : ∀ (n : Nat) (s : State), State.run (n + m) s = State.run m (State.run n s)
  | 0, s => by simp [run_zero]
  | n + 1, s => by
    cases h : s.settled with
    | true => rw [run_settled h, run_settled h, run_settled h]
    | false => rw [Nat.add_right_comm, run_succ h, run_succ h, run_add m n]

/-- More moves than it takes to settle change nothing. -/
theorem run_enough {s : State} {k n : Nat} (hs : (State.run k s).settled = true) (h : k ≤ n) :
    State.run n s = State.run k s := by
  obtain ⟨m, rfl⟩ := Nat.exists_eq_add_of_le h
  rw [run_add, run_settled hs]

/-- Everything one move can be (00_scope.md R16): the engine's step with no input left, the engine's turn, a wait that is over, a
wait that goes on, or an input from outside. -/
theorem turn_cases (s : State) :
    (s.inputs = [] ∧ s.turn = s.engineTurn) ∨
    (∃ is, s.inputs = .engine :: is ∧ s.turn = (s.setInputs is).engineTurn) ∨
    (∃ is, s.inputs = .await :: is ∧ s.blocked = true ∧ s.turn = s.setInputs is) ∨
    (∃ is, s.inputs = .await :: is ∧ s.blocked = false ∧ s.turn = s.engineTurn) ∨
    (∃ i is, s.inputs = i :: is ∧ i ≠ .engine ∧ i ≠ .await ∧ s.turn = (s.setInputs is).outside i) := by
  unfold State.turn
  rcases h : s.inputs with _ | ⟨i, is⟩
  · exact .inl ⟨rfl, rfl⟩
  · cases i with
    | engine => exact .inr (.inl ⟨is, rfl, rfl⟩)
    | await =>
      cases hb : s.blocked with
      | true => exact .inr (.inr (.inl ⟨is, rfl, rfl, by simp⟩))
      | false => exact .inr (.inr (.inr (.inl ⟨is, rfl, rfl, by simp⟩)))
    | nic n => exact .inr (.inr (.inr (.inr ⟨_, is, rfl, by simp, by simp, rfl⟩)))
    | host n => exact .inr (.inr (.inr (.inr ⟨_, is, rfl, by simp, by simp, rfl⟩)))
    | reset => exact .inr (.inr (.inr (.inr ⟨_, is, rfl, by simp, by simp, rfl⟩)))

/-- What every move keeps, the run keeps. -/
theorem run_keeps {P : State → Prop} (ht : ∀ s, P s → s.settled = false → P s.turn) :
    ∀ (n : Nat) (s : State), P s → P (State.run n s)
  | 0, _, h => h
  | n + 1, s, h => by
    cases hs : s.settled with
    | true => rw [run_settled hs]; exact h
    | false => rw [run_succ hs]; exact run_keeps ht n _ (ht s h hs)

/-- What the engine's steps, the inputs' effects and the passing of an input keep, every move keeps. -/
theorem turn_keeps {P : State → Prop} (he : ∀ l p s, s.eng.seq = .running l p → P s → P (engineStep l p s))
    (ho : ∀ i s, P s → P (s.outside i)) (hi : ∀ is s, P s → P (s.setInputs is)) (s : State) (h : P s) : P s.turn := by
  have het : ∀ s : State, P s → P s.engineTurn := by
    intro s h
    unfold State.engineTurn
    split
    · exact h
    · exact he _ _ _ (by assumption) h
  rcases turn_cases s with ⟨_, e⟩ | ⟨is, _, e⟩ | ⟨is, _, _, e⟩ | ⟨is, _, _, e⟩ | ⟨i, is, _, _, _, e⟩ <;> rw [e]
  · exact het s h
  · exact het _ (hi is s h)
  · exact hi is s h
  · exact het s h
  · exact ho i _ (hi is s h)

/-- Everything a step can answer: the configuration is ill formed; nothing to do; the running command goes on; or an idle
machine takes its next input. -/
theorem step_cases (s : State) :
    (configWf s.cfg = false ∧ step s = .refused .illFormedConfig) ∨
    (configWf s.cfg = true ∧ s.eng.seq ≠ .idle ∧ step s = .next s.drive) ∨
    (configWf s.cfg = true ∧ s.eng.seq = .idle ∧ s.inputs = [] ∧ step s = .next s) ∨
    (configWf s.cfg = true ∧ s.eng.seq = .idle ∧ ∃ i is, s.inputs = i :: is ∧ step s = idleStep i (s.setInputs is)) := by
  unfold step
  cases hc : configWf s.cfg with
  | false => exact .inl ⟨rfl, by simp⟩
  | true =>
    rcases hq : s.eng.seq with _ | ⟨l, p⟩
    · rcases hi : s.inputs with _ | ⟨i, is⟩
      · exact .inr (.inr (.inl ⟨rfl, rfl, rfl, by simp⟩))
      · exact .inr (.inr (.inr ⟨rfl, rfl, i, is, rfl, by simp⟩))
    · exact .inr (.inl ⟨rfl, by simp, by simp⟩)

/-- Every command is the host's write of its word. -/
theorem exec_eq (i : Instr) (s : State) : exec i s = issueWord (encode i) s := by cases i <;> rfl

/-- Everything a host write of a command word can answer. -/
theorem issueWord_cases (w : Word) (s : State) :
    (configWf s.cfg = false ∧ issueWord w s = .refused .illFormedConfig) ∨
    (configWf s.cfg = true ∧ s.eng.seq = .idle ∧ issueWord w s = .next (s.startCmd w).drive) ∨
    (configWf s.cfg = true ∧ s.eng.seq ≠ .idle ∧ issueWord w s = .next s.overrun) := by
  unfold issueWord
  cases hc : configWf s.cfg with
  | false => exact .inl ⟨rfl, by simp⟩
  | true =>
    rcases hq : s.eng.seq with _ | ⟨l, p⟩
    · exact .inr (.inl ⟨rfl, rfl, by simp⟩)
    · exact .inr (.inr ⟨rfl, by simp, by simp⟩)

/-- What command start, the overrun, the engine's steps, the inputs' effects and the passing of an input keep, every step keeps. -/
theorem step_keeps {P : State → Prop} (hs : ∀ w s, s.eng.seq = .idle → P s → P (s.startCmd w))
    (hv : ∀ s, P s → P s.overrun) (he : ∀ l p s, s.eng.seq = .running l p → P s → P (engineStep l p s))
    (ho : ∀ i s, P s → P (s.outside i)) (hi : ∀ is s, P s → P (s.setInputs is)) (s t : State) (h : P s)
    (hstep : step s = .next t) : P t := by
  have hd : ∀ s : State, P s → P s.drive := fun s h =>
    run_keeps (fun s h _ => turn_keeps he ho hi s h) _ s h
  have hw : ∀ (w : Word) (s t : State), P s → issueWord w s = .next t → P t := by
    intro w s t h e
    rcases issueWord_cases w s with ⟨_, e'⟩ | ⟨_, hq, e'⟩ | ⟨_, _, e'⟩ <;> rw [e'] at e
    · cases e
    · cases e; exact hd _ (hs w s hq h)
    · cases e; exact hv s h
  rcases step_cases s with ⟨_, e⟩ | ⟨_, _, e⟩ | ⟨_, _, _, e⟩ | ⟨_, _, i, is, _, e⟩ <;> rw [e] at hstep
  · cases hstep
  · cases hstep; exact hd s h
  · cases hstep; exact h
  · unfold idleStep at hstep
    have h' := hi is s h
    split at hstep
    · cases hstep; exact ho i _ h'
    · split at hstep
      · rw [exec_eq] at hstep; exact hw _ _ _ h' hstep
      · exact hw _ _ _ h' hstep

/-! ### Runs in which only the engine moves -/

theorem iterate_outer (k : Nat) : ∀ s : State, s.SameOuter (State.engineTurn^[k] s) := by
  induction k with
  | zero => exact State.SameOuter.refl
  | succ k ih => intro s; exact (engineTurn_outer s).trans (ih _)

theorem turn_quiet {s : State} (h : s.inputs = []) : s.turn = s.engineTurn := by simp [State.turn, h]

theorem engineTurn_idle {s : State} (h : s.eng.seq = .idle) : s.engineTurn = s := by simp [State.engineTurn, h]

theorem settled_idle {s : State} (h : s.eng.seq = .idle) : s.settled = true := by simp [State.settled, h]

theorem not_settled_running {s : State} {l : Latch} {p : Point} (h : s.eng.seq = .running l p)
    (hl : s.lockOther = false) : s.settled = false := by simp [State.settled, State.blocked, h, hl]

/-- With no input to come and the lock free, a run is the engine's own steps. -/
theorem run_quiet : ∀ (n : Nat) (s : State), s.inputs = [] → s.lockOther = false →
    State.run n s = State.engineTurn^[n] s
  | 0, _, _, _ => rfl
  | n + 1, s, hi, hl => by
    have ho := engineTurn_outer s
    have ih := run_quiet n s.engineTurn (ho.inputs.trans hi) (ho.lockOther.trans hl)
    rw [Function.iterate_succ_apply]
    rcases hq : s.eng.seq with _ | ⟨l, p⟩
    · rw [run_settled (settled_idle hq), engineTurn_idle hq, ← run_quiet n s hi hl, run_settled (settled_idle hq)]
    · rw [run_succ (not_settled_running hq hl), turn_quiet hi, ih]

/-- With no input to come and the lock free, a command that is over after `k` engine steps leaves the state they lead to. -/
theorem drive_quiet {s t : State} (k : Nat) (hi : s.inputs = []) (hl : s.lockOther = false)
    (hk : k ≤ stepBound s.cfg) (hr : State.engineTurn^[k] s = t) (ht : t.eng.seq = .idle) : s.drive = t := by
  have h1 : State.run k s = t := (run_quiet k s hi hl).trans hr
  unfold State.drive
  rw [run_enough (k := k) (by rw [h1]; exact settled_idle ht) (by omega), h1]

/-- A command that is over after `k` engine steps, with no input to come and the lock free: what `exec` answers. -/
theorem exec_quiet {i : Instr} {s t : State} (k : Nat) (hc : configWf s.cfg = true) (hq : s.eng.seq = .idle)
    (hi : s.inputs = []) (hl : s.lockOther = false) (hk : k ≤ stepBound s.cfg)
    (hr : State.engineTurn^[k] (s.startCmd (encode i)) = t) (ht : t.eng.seq = .idle) : exec i s = .next t := by
  rw [exec_eq]
  rcases issueWord_cases (encode i) s with ⟨h, _⟩ | ⟨_, _, e⟩ | ⟨_, h, _⟩
  · simp [hc] at h
  · rw [e, drive_quiet k (by simpa using hi) (by simpa using hl) (by simpa using hk) hr ht]
  · exact absurd hq h

end Sys2Proof.Machine
end

