-- ==== Sys2Proof/Laws/Steps.lean ====
section
/-! SUPPORT. Everything each shared operation can do: one lemma per operation, its guards with its results. -/

namespace Sys2Proof.Machine

variable (l : Latch) (s : State)

/-- The decode step (30_encoding.md R95). -/
theorem decodeStep_cases :
    (s.eng.fault = true ∧ decodeStep l s = s.finish .faulted) ∨
    (s.eng.fault = false ∧ (∃ why, decode l.word = .reject why) ∧ decodeStep l s = s.refuse) ∨
    (s.eng.fault = false ∧ ∃ i, decode l.word = .command i ∧
      ((i.needsInit = true ∧ s.eng.hwInit = false ∧ decodeStep l s = s.refuse) ∨
        ((i.needsInit = true → s.eng.hwInit = true) ∧ decodeStep l s = startInstr l i s))) := by
  unfold decodeStep
  cases hf : s.eng.fault with
  | true => exact .inl ⟨rfl, by simp⟩
  | false =>
    cases hd : decode l.word with
    | reject why => exact .inr (.inl ⟨rfl, ⟨why, rfl⟩, by simp⟩)
    | command i =>
      refine .inr (.inr ⟨rfl, i, rfl, ?_⟩)
      cases hn : i.needsInit with
      | false => exact .inr ⟨by simp, by simp [hn]⟩
      | true =>
        cases hw : s.eng.hwInit with
        | false => exact .inl ⟨rfl, rfl, by simp [hn]⟩
        | true => exact .inr ⟨by simp, by simp [hn]⟩

theorem initStart_cases :
    (initRefused l s = true ∧ initStart l s = s.refuse) ∨
    (initRefused l s = false ∧ initStart l s = s.goto l (.init (.txSlot 0))) := by
  unfold initStart; cases h : initRefused l s <;> simp

theorem initMapBuf_cases (i : Nat) :
    (s.mapAnswer = .fail ∧ i = 0 ∧ initMapBuf l i s = (s.mapCall (poolBuf l i) l.arg1.toNat).finish .initFailure) ∨
    (s.mapAnswer = .fail ∧ i ≠ 0 ∧
      initMapBuf l i s = (s.mapCall (poolBuf l i) l.arg1.toNat).goto l (.init (.undo (i - 1)))) ∨
    (∃ d, s.mapAnswer = .ok d ∧ initMapBuf l i s =
      (((s.mapCall (poolBuf l i) l.arg1.toNat).addMapping (dev (poolBuf l i) (.ok d)) (poolBuf l i)
        l.arg1.toNat).setRxBinding i { da := dev (poolBuf l i) (.ok d), va := poolBuf l i }).goto l
          (.init (.rxSlot i))) := by
  unfold initMapBuf
  cases h : s.mapAnswer with
  | fail =>
    by_cases h0 : i = 0
    · exact .inl ⟨rfl, h0, by simp [h0]⟩
    · exact .inr (.inl ⟨rfl, h0, by simp [h0]⟩)
  | ok d => exact .inr (.inr ⟨d, rfl, rfl⟩)

/-- The last of `programNic`'s writes ends INIT (40_ring.md R133, R137). -/
theorem initProgram_cases (k : Nat) :
    ((programList s.cfg l.imm)[k]? = none ∧ initProgram l k s = initDone l s) ∨
    (∃ r v s', (programList s.cfg l.imm)[k]? = some (r, v) ∧
      s' = (if k = 0 then clearIntMask (s.regWrite r v) else s.regWrite r v) ∧
      ((k + 1 < 11 ∧ initProgram l k s = s'.goto l (.init (.program (k + 1)))) ∨
        (¬ k + 1 < 11 ∧ initProgram l k s = initDone l s'))) := by
  unfold initProgram
  cases h : (programList s.cfg l.imm)[k]? with
  | none => exact .inl ⟨rfl, rfl⟩
  | some rv =>
    obtain ⟨r, v⟩ := rv
    refine .inr ⟨r, v, _, rfl, rfl, ?_⟩
    by_cases hk : k + 1 < 11
    · exact .inl ⟨hk, by simp [hk]⟩
    · exact .inr ⟨hk, by simp [hk]⟩

theorem sendStart_cases :
    (sendRefused l s = true ∧ sendStart l s = s.refuse) ∨
    (sendRefused l s = false ∧ s.slotFree s.eng.txW.toNat = true ∧ sendStart l s = s.goto l (.tx .sendMap)) ∨
    (sendRefused l s = false ∧ s.slotFree s.eng.txW.toNat = false ∧ sendStart l s = s.finish .busy) := by
  unfold sendStart
  cases sendRefused l s <;> cases s.slotFree s.eng.txW.toNat <;> simp

theorem acquireOrWait_cases (p : Point) :
    (s.lockOther = true ∧ acquireOrWait l p s = s) ∨
    (s.lockOther = false ∧ acquireOrWait l p s = s.acquire.goto l p) := by
  unfold acquireOrWait; cases s.lockOther <;> simp

theorem sendfStart_cases :
    (sendfRefused l s = true ∧ sendfStart l s = s.refuse) ∨
    (sendfRefused l s = false ∧ sendfStart l s = s.goto l (.tx (.fragRead []))) := by
  unfold sendfStart; cases sendfRefused l s <;> simp

/-- A list read whole has fragments exactly when none of its entries is illegal (41_transmit.md R153). -/
theorem allFrags_eq_some : ∀ (es : List (Option Frag)) (fs : List Frag), allFrags es = some fs ↔ es = fs.map some
  | [], fs => by cases fs <;> simp [allFrags]
  | none :: es, fs => by cases fs <;> simp [allFrags]
  | some f :: es, fs => by
    cases fs with
    | nil => simp [allFrags]
    | cons g fs => simp [allFrags, allFrags_eq_some es fs, and_comm]

theorem allFrags_eq_none (es : List (Option Frag)) : allFrags es = none ↔ none ∈ es := by
  induction es with
  | nil => simp [allFrags]
  | cons e es ih => cases e <;> simp [allFrags, ih]

theorem fragsRead_cases (es : List (Option Frag)) :
    ((none ∈ es ∨ es = []) ∧ fragsRead l es s = s.refuse) ∨
    (∃ f, ∃ todo : List Frag, es = some f :: todo.map some ∧ s.slotsFree l.imm = true ∧
      fragsRead l es s = s.goto l (.tx (.fragMap f todo []))) ∨
    (∃ f, ∃ todo : List Frag, es = some f :: todo.map some ∧ s.slotsFree l.imm = false ∧ fragsRead l es s = s.finish .busy) := by
  unfold fragsRead
  cases h : allFrags es with
  | none => exact .inl ⟨.inl ((allFrags_eq_none es).mp h), rfl⟩
  | some fs =>
    have he := (allFrags_eq_some es fs).mp h
    cases fs with
    | nil => exact .inl ⟨.inr he, rfl⟩
    | cons f todo =>
      cases hs : s.slotsFree l.imm with
      | true => exact .inr (.inl ⟨f, todo, he, rfl, by simp⟩)
      | false => exact .inr (.inr ⟨f, todo, he, rfl, by simp⟩)

theorem fragRead_cases (acc es : List (Option Frag)) (s' : State)
    (he : es = acc ++ [fragOf (readDesc s.mem (entryAddr l.arg0 16 acc.length))])
    (hs : s' = s.memRead (entryAddr l.arg0 16 acc.length) 16) :
    (acc.length + 1 < l.imm ∧ fragRead l acc s = s'.goto l (.tx (.fragRead es))) ∨
    (¬ acc.length + 1 < l.imm ∧ fragRead l acc s = fragsRead l es s') := by
  subst he hs
  unfold fragRead
  by_cases hk : acc.length + 1 < l.imm
  · exact .inl ⟨hk, if_pos hk⟩
  · exact .inr ⟨hk, if_neg hk⟩

/-- The mapped fragments, in order, before and after one more is mapped. -/
theorem afterFragMap_cases (todo : List Frag) (done : List MappedFrag) (m : MappedFrag) :
    (∃ f rest, todo = f :: rest ∧ afterFragMap todo done m = .fragMap f rest (done ++ [m])) ∨
    (∃ f rest, todo = [] ∧ done ++ [m] = f :: rest ∧ afterFragMap todo done m = .fragAcquire f rest) := by
  cases todo with
  | cons f rest => exact .inl ⟨f, rest, rfl, rfl⟩
  | nil =>
    cases done with
    | nil => exact .inr ⟨m, [], rfl, rfl, rfl⟩
    | cons d ds => exact .inr ⟨d, ds ++ [m], rfl, rfl, rfl⟩

theorem txUnlock_cases (slot : Half) :
    (l.f0 = false ∧ txUnlock l slot s = s.release.finish .success) ∨
    (l.f0 = true ∧ 0 < s.cfg.txPollCount ∧ txUnlock l slot s = s.release.goto l (.tx (.waitRead slot 0))) ∨
    (l.f0 = true ∧ s.cfg.txPollCount = 0 ∧ txUnlock l slot s = s.release.finish .deviceFailure) := by
  unfold txUnlock
  cases l.f0 with
  | false => exact .inl ⟨rfl, by simp⟩
  | true =>
    rcases Nat.eq_zero_or_pos s.cfg.txPollCount with h | h
    · exact .inr (.inr ⟨rfl, h, by simp [h]⟩)
    · exact .inr (.inl ⟨rfl, h, by simp [h]⟩)

theorem waitRead_cases (slot : Half) (k : Nat) (s' : State) (hs : s' = s.memRead (txSlotAddr s.cfg slot.toNat) 16) :
    (txDone (s.txRecAt slot.toNat) = true ∧ waitRead l slot k s = s'.finish .success) ∨
    (txDone (s.txRecAt slot.toNat) = false ∧ k + 1 < s.cfg.txPollCount ∧
      waitRead l slot k s = s'.goto l (.tx (.waitDelay slot k))) ∨
    (txDone (s.txRecAt slot.toNat) = false ∧ ¬ k + 1 < s.cfg.txPollCount ∧
      waitRead l slot k s = s'.finish .deviceFailure) := by
  subst hs
  unfold waitRead
  cases h : txDone (s.txRecAt slot.toNat) with
  | true => exact .inl ⟨rfl, by simp [h]⟩
  | false =>
    by_cases hk : k + 1 < s.cfg.txPollCount
    · exact .inr (.inl ⟨rfl, hk, by simp [h, hk]⟩)
    · exact .inr (.inr ⟨rfl, hk, by simp [h, hk]⟩)

theorem reclaimNext_cases (h : Word) (k : Nat) :
    ((l.imm ≤ k ∨ (s.eng.txC.toNat = h.toNat ∧ 0 < k) ∨ s.slotFree s.eng.txC.toNat = true) ∧
      reclaimNext l h k s = s.finish .success) ∨
    (k < l.imm ∧ ¬ (s.eng.txC.toNat = h.toNat ∧ 0 < k) ∧ s.slotFree s.eng.txC.toNat = false ∧
      reclaimNext l h k s = s.goto l (.reclaim (.read h k))) := by
  unfold reclaimNext
  by_cases h1 : l.imm ≤ k
  · exact .inl ⟨.inl h1, by simp [h1]⟩
  · by_cases h2 : s.eng.txC.toNat = h.toNat ∧ 0 < k
    · exact .inl ⟨.inr (.inl h2), by simp [h2]⟩
    · cases h3 : s.slotFree s.eng.txC.toNat with
      | true => exact .inl ⟨.inr (.inr rfl), by simp⟩
      | false => exact .inr ⟨by omega, h2, rfl, by rw [if_neg h1, if_neg h2]; simp⟩

theorem reclaimHead_cases :
    (s.eng.n.toNat ≤ (s.regVal .tdh).toNat ∧
      reclaimHead l s = (s.regRead .tdh).raiseFault .headOutOfRange) ∨
    ((s.regVal .tdh).toNat < s.eng.n.toNat ∧ s.headInSpan (s.regVal .tdh).toNat = true ∧
      reclaimHead l s = reclaimNext l (s.regVal .tdh) 0 (s.regRead .tdh)) ∨
    ((s.regVal .tdh).toNat < s.eng.n.toNat ∧ s.headInSpan (s.regVal .tdh).toNat = false ∧
      reclaimHead l s = (s.regRead .tdh).raiseFault .headOutsideWindow) := by
  unfold reclaimHead
  by_cases h1 : s.eng.n.toNat ≤ (s.regVal .tdh).toNat
  · exact .inl ⟨h1, by simp [h1]⟩
  · cases h2 : s.headInSpan (s.regVal .tdh).toNat with
    | true => exact .inr (.inl ⟨by omega, rfl, by simp [h1, h2]⟩)
    | false => exact .inr (.inr ⟨by omega, rfl, by simp [h1, h2]⟩)

theorem pollRead_cases (d : RxRec) (s' : State) (hd : d = s.rxRecAt s.eng.rxC.toNat)
    (hs : s' = s.memRead (rxSlotAddr s.cfg s.eng.rxC.toNat) 16) :
    (rxDone s.cfg d = false ∧ pollRead l s = s'.finish .noData) ∨
    (rxDone s.cfg d = true ∧ (d.length = 0 ∨ d.errors ≠ 0) ∧ pollRead l s = s'.goto l (.rx (.rearm none))) ∨
    (rxDone s.cfg d = true ∧ d.length ≠ 0 ∧ d.errors = 0 ∧ 0 < copyCount l s d.length ∧
      pollRead l s = s'.goto l (.rx (.copy d.length (copyCount l s d.length)))) ∨
    (rxDone s.cfg d = true ∧ d.length ≠ 0 ∧ d.errors = 0 ∧ copyCount l s d.length = 0 ∧
      pollRead l s = (countTrunc s' d.length 0).goto l (.rx (.header d.length 0))) := by
  subst hd hs
  unfold pollRead
  dsimp only
  cases h1 : rxDone s.cfg (s.rxRecAt s.eng.rxC.toNat) with
  | false => exact .inl ⟨rfl, by simp⟩
  | true =>
    by_cases h2 : (s.rxRecAt s.eng.rxC.toNat).length = 0 ∨ (s.rxRecAt s.eng.rxC.toNat).errors ≠ 0
    · exact .inr (.inl ⟨rfl, h2, by rw [if_neg (by simp), if_pos h2]⟩)
    · have h3 := not_or.mp h2
      rcases Nat.eq_zero_or_pos (copyCount l s (s.rxRecAt s.eng.rxC.toNat).length) with h4 | h4
      · exact .inr (.inr (.inr ⟨rfl, h3.1, by simpa using h3.2, h4, by
          rw [if_neg (by simp), if_neg h2, if_neg (by omega), h4]⟩))
      · exact .inr (.inr (.inl ⟨rfl, h3.1, by simpa using h3.2, h4, by
          rw [if_neg (by simp), if_neg h2, if_pos h4]⟩))

theorem linkUpSeen_cases :
    (0 < s.cfg.linkSettleUs ∧ linkUpSeen l s = s.goto l (.link .settle)) ∨
    (s.cfg.linkSettleUs = 0 ∧ linkUpSeen l s = linkUpDone s) := by
  unfold linkUpSeen
  rcases Nat.eq_zero_or_pos s.cfg.linkSettleUs with h | h
  · exact .inr ⟨h, by simp [h]⟩
  · exact .inl ⟨h, by simp [h]⟩

theorem startRetry_cases :
    (0 < s.cfg.downshiftPollCount ∧ startRetry l s = (s.setLink .downshiftRetry).goto l (.link (.retryDelay 0))) ∨
    (s.cfg.downshiftPollCount = 0 ∧ startRetry l s = linkFailed (s.setLink .downshiftRetry)) := by
  unfold startRetry
  rcases Nat.eq_zero_or_pos s.cfg.downshiftPollCount with h | h
  · exact .inr ⟨h, by simp [h]⟩
  · exact .inl ⟨h, by simp [h]⟩

theorem windowOver_cases :
    (s.cfg.phyDownshift = true ∧ 0 < s.cfg.phyProbeCount ∧ windowOver l s = s.goto l (.link (.phyRead 0))) ∨
    ((s.cfg.phyDownshift = false ∨ s.cfg.phyProbeCount = 0) ∧ windowOver l s = linkFailed s) := by
  unfold windowOver
  cases h : s.cfg.phyDownshift with
  | false => exact .inr ⟨.inl rfl, by simp⟩
  | true =>
    rcases Nat.eq_zero_or_pos s.cfg.phyProbeCount with h' | h'
    · exact .inr ⟨.inr h', by simp [h']⟩
    · exact .inl ⟨rfl, h', by simp [h']⟩

theorem startQueue_cases (q : Queue) (r : Return) :
    (s.cfg.queueHandshake = true ∧ startQueue l q r s = s.goto l (.queue (.onRead q r))) ∨
    (s.cfg.queueHandshake = false ∧ startQueue l q r s = s.goto l (.queue (.enableRead q r))) := by
  unfold startQueue; cases s.cfg.queueHandshake <;> simp

/-- A start or stop procedure returns to its caller: it ends the command, or goes on with the locked change. -/
theorem returnTo_cases (r : Return) (timedOut : Bool) :
    (r = .command ∧ returnTo l r timedOut s = s.finish (lateStatus timedOut)) ∨
    (∃ x late, r = .paused x late ∧
      returnTo l r timedOut s = s.goto l (.filter (changePoint x true (late || timedOut)))) ∨
    (∃ x late, r = .resumed x late ∧ returnTo l r timedOut s = s.goto l (.filter (.release x (late || timedOut)))) ∨
    (∃ late, r = .final late ∧ returnTo l r timedOut s = s.finish (lateStatus (late || timedOut))) := by
  cases r with
  | command => exact .inl ⟨rfl, rfl⟩
  | paused x late => exact .inr (.inl ⟨x, late, rfl, rfl⟩)
  | resumed x late => exact .inr (.inr (.inl ⟨x, late, rfl, rfl⟩))
  | final late => exact .inr (.inr (.inr ⟨late, rfl, rfl⟩))

/-- Step 3 of FILTER.SET (44_filter.md R205, R206). -/
theorem filterEnd_cases (late : Bool) (s' : State)
    (hs : s' = s.setEng { s.eng with filterMask := if l.mask = 0 then 0 else l.mask ||| maskUnicast }) :
    (l.mask ≠ 0 ∧ s.eng.rxStarted = false ∧ filterEnd l late s = startQueue l .rx (.final late) s') ∨
    (l.mask = 0 ∧ s.eng.rxStarted = true ∧ filterEnd l late s = stopQueue l .rx (.final late) s') ∨
    ((l.mask = 0 ↔ s.eng.rxStarted = false) ∧ filterEnd l late s = s'.finish (lateStatus late)) := by
  subst hs
  unfold filterEnd
  by_cases hm : l.mask = 0
  · rw [if_neg (by simpa using hm), if_pos hm]
    cases hr : s.eng.rxStarted with
    | true => exact .inr (.inl ⟨hm, rfl, rfl⟩)
    | false => exact .inr (.inr ⟨iff_of_true hm rfl, rfl⟩)
  · rw [if_pos hm, if_neg hm]
    cases hr : s.eng.rxStarted with
    | true => exact .inr (.inr ⟨iff_of_false hm Bool.noConfusion, rfl⟩)
    | false => exact .inl ⟨hm, rfl, rfl⟩

/-- Step 2 of FILTER.SET once its list is read: program the NIC, or go on with step 3 (44_filter.md R203, R204). -/
theorem filterListed_cases (list : Option (List Mac)) (late : Bool) :
    (∃ new, list = some new ∧ listChanged new s = true ∧
      filterListed l list late s = (s.setMcastTable new).goto l (.filter (.acquire .mcast late))) ∨
    ((∀ new, list = some new → listChanged new s = false) ∧ maskDiffers l s maskFmc = true ∧
      filterListed l list late s = s.goto l (.filter (.acquire .mcast late))) ∨
    ((∀ new, list = some new → listChanged new s = false) ∧ maskDiffers l s maskFmc = false ∧
      filterListed l list late s = filterEnd l late s) := by
  unfold filterListed
  cases list with
  | none => cases maskDiffers l s maskFmc <;> simp
  | some new =>
    cases h : listChanged new s with
    | true => exact .inl ⟨new, rfl, h, by simp [h]⟩
    | false =>
      have hn : ∀ new', some new = some new' → listChanged new' s = false := by
        intro new' e; cases e; exact h
      cases hm : maskDiffers l s maskFmc with
      | true => exact .inr (.inl ⟨hn, rfl, by simp [h]⟩)
      | false => exact .inr (.inr ⟨hn, rfl, by simp [h]⟩)

theorem filterAcquire_cases (x : Change) (late : Bool) :
    (s.lockOther = true ∧ filterAcquire l x late s = s) ∨
    (s.lockOther = false ∧ s.eng.rxStarted = true ∧
      filterAcquire l x late s = stopQueue l .rx (.paused x late) s.acquire) ∨
    (s.lockOther = false ∧ s.eng.rxStarted = false ∧
      filterAcquire l x late s = s.acquire.goto l (.filter (changePoint x false late))) := by
  unfold filterAcquire; cases s.lockOther <;> cases s.eng.rxStarted <;> simp

/-- A device range that is found lies in a live mapping, which gives its engine address (20_memory.md R59). -/
theorem lookupMapping_some {da n : Nat} {va : Addr} : ∀ {ms : List Mapping}, lookupMapping da n ms = some va →
    ∃ m ∈ ms, m.da.toNat ≤ da ∧ da + n ≤ m.da.toNat + m.len ∧ va = m.va + BitVec.ofNat 64 (da - m.da.toNat)
  | [], h => by simp [lookupMapping] at h
  | m :: ms, h => by
    unfold lookupMapping at h
    split at h
    · rename_i hc
      exact ⟨m, List.mem_cons_self, hc.1, hc.2, (Option.some.inj h).symm⟩
    · obtain ⟨m', hm, hr⟩ := lookupMapping_some h
      exact ⟨m', List.mem_cons_of_mem _ hm, hr⟩

/-- Where a device range leads: into a live mapping, to itself in a ring region, or nowhere (20_memory.md R59). -/
theorem deviceRange_cases (da : Addr) (n : Nat) :
    (∃ va, lookupMapping da.toNat n s.maps = some va ∧ s.deviceRange da n = some va) ∨
    (lookupMapping da.toNat n s.maps = none ∧ insideRings s.cfg da.toNat n = true ∧ s.deviceRange da n = some da) ∨
    (lookupMapping da.toNat n s.maps = none ∧ insideRings s.cfg da.toNat n = false ∧ s.deviceRange da n = none) := by
  unfold State.deviceRange
  cases lookupMapping da.toNat n s.maps with
  | some va => exact .inl ⟨va, rfl, rfl⟩
  | none => cases insideRings s.cfg da.toNat n <;> simp

/-- The NIC transmit step: no move, or the effect of 20_memory.md R80. -/
theorem nicTransmit_cases (a : Addr) (d : TxRec) (ha : a = s.nic.txSlot s.nic.tdh.toNat)
    (hd : d = decodeTx s.cfg (readDesc s.mem a)) :
    ((s.txStepEnabled = false ∨ s.deviceRange d.addr d.length.toNat = none) ∧ s.nicTransmit = s) ∨
    (∃ va, s.txStepEnabled = true ∧ s.deviceRange d.addr d.length.toNat = some va ∧
      s.nicTransmit = s.txStepEffect a d (readBytes s.mem va d.length.toNat)) := by
  subst ha hd
  unfold State.nicTransmit
  cases s.txStepEnabled with
  | false => exact .inl ⟨.inl rfl, by simp⟩
  | true =>
    dsimp only
    cases s.deviceRange (decodeTx s.cfg (readDesc s.mem (s.nic.txSlot s.nic.tdh.toNat))).addr
      (decodeTx s.cfg (readDesc s.mem (s.nic.txSlot s.nic.tdh.toNat))).length.toNat with
    | none => exact .inl ⟨.inr rfl, by simp⟩
    | some va => exact .inr ⟨va, rfl, rfl, by simp⟩

/-- The NIC receive step: no move, or the effect of 20_memory.md R81. -/
theorem nicReceive_cases (data : List Byte) (wb : RxRec) (a : Addr) (ha : a = s.nic.rxSlot s.nic.rdh.toNat) :
    s.nicReceive data wb = s ∨
    (∃ va, s.rxStepEnabled = true ∧ s.receiveChoiceOk data wb = true ∧
      lookupMapping (decodeRx s.cfg (readDesc s.mem a)).addr.toNat data.length s.maps = some va ∧
      s.nicReceive data wb =
        { s with
          mem := writeBytes (writeBytes s.mem va data) a (descBytes (encodeRxNic s.cfg wb))
          nic := { s.nic with rdh := headNext s.nic.rxSize s.nic.rdh } }) := by
  subst ha
  unfold State.nicReceive
  cases s.rxStepEnabled with
  | false => exact .inl (by simp)
  | true =>
    cases s.receiveChoiceOk data wb with
    | false => exact .inl (by simp)
    | true =>
      dsimp only
      cases lookupMapping (decodeRx s.cfg (readDesc s.mem (s.nic.rxSlot s.nic.rdh.toNat))).addr.toNat data.length s.maps with
      | none => exact .inl (by simp)
      | some va => exact .inr ⟨va, rfl, rfl, rfl, by simp⟩

/-- All that the host's stop of the NIC can do. -/
theorem stopNic_cases (s : State) :
    s.stopNic = s ∨ (s.eng.hwInit = false ∧ s.eng.seq.busy = false ∧ s.stopNic = s.setNic (s.nic.stopped s.cfg)) := by
  unfold State.stopNic State.nicIdle
  split <;> simp_all

/-- All that the host's reset of the NIC can do. -/
theorem resetNic_cases (s : State) (d : Nic) :
    s.resetNic d = s ∨ (s.eng.hwInit = false ∧ s.eng.seq.busy = false ∧ d.mcast.length ≤ s.cfg.maxMcast ∧
      s.resetNic d = s.setNic (d.stopped s.cfg)) := by
  unfold State.resetNic State.nicIdle
  split <;> simp_all

end Sys2Proof.Machine
end

