-- ==== Sys2Proof/Tests/Slice0.lean ====
section
/-! SUPPORT. Tests: decoding of words written out from the spec's encodings, one or two single steps per command with the values
of spec/95_test_vectors.md, and for every statement with premises a state that meets them. -/

namespace Sys2Proof.Tests

open Sys2Proof Sys2Proof.Machine

/-! ### Well-formedness and decoding -/

/-- Ill formed: FILTER.SET with `IMM[5]` (30_encoding.md R98; vector E6). -/
theorem test_wf_refuses_filter_mask_32 : (Instr.filterSet false 32).wf = false := by decide

theorem test_wf_accepts_filter_mask_31 : (Instr.filterSet true 31).wf = true := by decide

/-- The words of 95_test_vectors.md 2.1, one per row of R96 at least, written out from R94. -/
theorem test_decode_words :
    decode 0x00080001#32 = .command (.init 8) ∧
    decode 0x00000110#32 = .command (.txSend true false) ∧
    decode 0x00000310#32 = .command (.txSend true true) ∧
    decode 0x00030011#32 = .command (.txSendf false false 3) ∧
    decode 0x00040012#32 = .command (.txReclaim 4) ∧
    decode 0x00000020#32 = .command .rxPoll ∧
    decode 0x00000130#32 = .command (.linkWait true) ∧
    decode 0x00070140#32 = .command (.filterSet true 7) ∧
    decode 0x00000041#32 = .command .intMask ∧
    decode 0x00000050#32 = .command .rxEnable ∧
    decode 0x00000051#32 = .command .rxDisable ∧
    decode 0x00000052#32 = .command .txqEnable ∧
    decode 0x00000053#32 = .command .txqDisable := by decide

/-- Bit by bit (R94): IMM = 0x8001, RSV = 0, F1 = 1, F0 = 0, OPC = 0x11. -/
theorem test_decode_sendf_bits :
    decode 0b1000000000000001_000000_1_0_00010001#32 = .command (.txSendf false true 0x8001) := by decide

/-- Vectors E1 to E6. -/
theorem test_decode_refusals :
    decode 0x00000000#32 = .reject .reservedOpcode ∧
    decode 0x00000013#32 = .reject .reservedOpcode ∧
    decode 0x00000410#32 = .reject .reservedBits ∧
    decode 0x00010010#32 = .reject .reservedBits ∧
    decode 0x00000230#32 = .reject .reservedBits ∧
    decode 0x00200040#32 = .reject .reservedBits := by decide

theorem test_decode_table_word : decodeTableWord 32 0x00080001 = some (.init 8) := by decide

/-! ### States -/

/-- `s` with operand registers, the identity mapper's next `n` answers, and memory bytes `bs` at `a`. -/
def given (s : State) (a0 : Addr) (a1 a2 : Word) (n : Nat) : State :=
  { s with
    regs := { s.regs with arg0 := a0, arg1 := a1, arg2 := a2 }
    mapper := List.replicate n (.ok 0) }

/-- `s` with memory bytes `bs` at `a`. -/
def holding (s : State) (a : Addr) (bs : List Byte) : State := { s with mem := writeBytes s.mem a bs }

/-- The engine record and the NIC after `INIT n=8, pool=0x100000, bsize=2048` (vector I1), with the receive slots' memory
not written: what a test needs of it, it writes. -/
def up : State :=
  { State.reset with
    eng := { Engine.reset with
      n := 8
      b := 2048
      hwInit := true
      rxTab := (List.range 8).map (fun i =>
        (i, { da := BitVec.ofNat 64 (0x100000 + 2048 * i), va := BitVec.ofNat 64 (0x100000 + 2048 * i) })) }
    nic := { Nic.start with
      tdbal := 0x10000
      tdlen := 128
      rdbal := 0x20000
      rdlen := 128
      rdt := 7 } }

/-- `up` on Family B (REF-B). -/
def upB : State := { up with cfg := Config.refB true 0 }

/-- `up` with two frames bound in slots 0 and 1 and the NIC's head at 2: both are sent, their done bits set (as vector K4
before the third frame). -/
def sent : State :=
  { holding (holding up 0x10000 (descBytes (packTx { txDesc 0x40000 60 0x0B 0 with sta := 1 }))) 0x10010
      (descBytes (packTx { txDesc 0x41000 60 0x0B 0 with sta := 1 })) with
    eng := { up.eng with
      txW := 2
      txTab := [(0, ⟨0x40000, 0x40000, 60⟩), (1, ⟨0x41000, 0x41000, 60⟩)] }
    nic := { up.nic with tdt := 2, tdh := 2 } }

/-- The frame F1 of 95_test_vectors.md 2.5. -/
def frame1 : List Byte :=
  [2, 0, 0, 0, 0, 1, 2, 0, 0, 0, 0, 2, 8, 0] ++ (List.range 50).map (BitVec.ofNat 8)

/-- `up` with a received frame in slot 0: length, errors and data as given, DD and EOP set. -/
def received (len : Half) (err : Byte) (data : List Byte) : State :=
  holding (holding up 0x100000 data) 0x20000
    (descBytes (packRx { addr := 0x100000, length := len, csum := 0, sta := 3, errors := err, special := 0 }))

/-- The list of vector S4 at 0x7000. -/
def listed : State :=
  holding (holding (holding up 0x7000 (leBytes 8 0x50000 ++ leBytes 8 100)) 0x7010 (leBytes 8 0x51000 ++ leBytes 8 200))
    0x7020 (leBytes 8 0x52000 ++ leBytes 8 300)

/-- What holds of the state an outcome goes to. -/
def after (o : Host.Outcome State Fault Refusal) (p : State → Bool) : Bool :=
  match o with
  | .next t => p t
  | .fault _ => false
  | .refused _ => false

theorem next_of_after {o : Host.Outcome State Fault Refusal} {p : State → Bool} (h : after o p = true) :
    ∃ t, o = .next t ∧ p t = true := by
  cases o with
  | next t => exact ⟨t, rfl, h⟩
  | fault _ => exact absurd h Bool.noConfusion
  | refused _ => exact absurd h Bool.noConfusion

/-! ### One command from one state -/

/-- Vector I1, with N = 2: the status word, the sizes, the second receive descriptor's address and the receive tail. -/
theorem test_init_success : after (exec (.init 2) (given State.reset 0x100000 2048 0 2)) (fun t =>
    t.statusWord = 0x800 && t.hostRead 0x48 = 2 && t.hostRead 0x4C = 2048 && (t.rxRecAt 1).addr = 0x100800 &&
      t.nic.rdt = 1 && t.nic.tdlen = 32) = true := by decide +kernel

/-- Vector I9 at the second `Map`: the one earlier mapping is undone, `InitFailure`. -/
theorem test_init_mapping_failure :
    after (exec (.init 8) { given State.reset 0x100000 2048 0 0 with mapper := [.ok 0, .fail] }) (fun t =>
      t.statusWord = 5 && t.maps = [] && t.eng.rxTab = [] && t.ports.head? = some (.unmap 0x100000 2048)) = true := by
  decide +kernel

/-- Vectors T1 and T5 in one: the descriptor's bytes with the VLAN tag, the tail and the cursor. -/
theorem test_send_vlan : after (exec (.txSend false true) (given up 0x40000 60 0x0123 1)) (fun t =>
    readBytes t.mem 0x10000 16 = [0, 0, 4, 0, 0, 0, 0, 0, 0x3C, 0, 0, 0x4B, 0, 0, 0x23, 1] && t.nic.tdt = 1 &&
      t.hostRead 0x34 = 1 && t.regs.code = .success) = true := by decide +kernel

/-- Vectors T3 and S3: a length above 16 bits is refused, a bound slot is busy. -/
theorem test_send_refused_and_busy :
    after (exec (.txSend false false) (given up 0x40000 0x1003C 0 1)) (fun t => t.statusWord = 0x806 && t.ports = []) = true ∧
    after (exec (.txSend false false)
        { given up 0x40000 60 0 1 with eng := { up.eng with txTab := [(0, ⟨0x40000, 0x40000, 60⟩)] } })
      (fun t => t.statusWord = 0x801 && t.ports = []) = true := by decide +kernel

/-- Vector S4. -/
theorem test_sendf_three : after (exec (.txSendf false false 3) (given listed 0x7000 0 0 3)) (fun t =>
    (t.txRecAt 0).cmd = 0x0A && (t.txRecAt 1).cmd = 0x0A && (t.txRecAt 2).cmd = 0x0B && (t.txRecAt 1).length = 200 &&
      (t.txRecAt 2).addr = 0x52000 && t.eng.txW = 3 && t.nic.tdt = 3 && t.regs.code = .success) = true := by decide +kernel

/-- Vectors T9 and T11: 0 and 9 fragments are refused; so is a list whose entry 1 has length 0, after its 3 reads. -/
theorem test_sendf_counts :
    after (exec (.txSendf false false 0) (given listed 0x7000 0 0 3)) (fun t => t.statusWord = 0x806) = true ∧
    after (exec (.txSendf false false 9) (given listed 0x7000 0 0 3)) (fun t => t.statusWord = 0x806) = true ∧
    after (exec (.txSendf false false 3) (given (holding listed 0x7018 (leBytes 8 0)) 0x7000 0 0 3)) (fun t =>
      t.statusWord = 0x806 && t.ports = [.memRead 0x7020 16, .memRead 0x7010 16, .memRead 0x7000 16]) = true := by
  decide +kernel

/-- Vector K4: two completed slots, the output array, the cleared done bits. -/
theorem test_reclaim_two : after (exec (.txReclaim 8) (given sent 0x9000 0 0 0)) (fun t =>
    t.regs.res2 = 2 && t.hostRead 0x34 = 0x00020002 && readBytes t.mem 0x9008 8 = [0, 0x10, 4, 0, 0, 0, 0, 0] &&
      (t.txRecAt 1).sta = 0 && t.eng.txTab = []) = true := by decide +kernel

/-- Vectors K6 and K7: the two fault causes. -/
theorem test_reclaim_faults :
    after (exec (.txReclaim 4) (given { sent with nic := { sent.nic with tdh := 8 } } 0x9000 0 0 0))
      (fun t => t.statusWord = 0x00010827) = true ∧
    after (exec (.txReclaim 4) (given { up with nic := { up.nic with tdh := 3 } } 0x9000 0 0 0))
      (fun t => t.statusWord = 0x00020827) = true := by decide +kernel

/-- Vector X5: a frame of 64 bytes into 10 bytes. -/
theorem test_poll_truncated : after (exec .rxPoll (given (received 64 0 frame1) 0x8000 10 0 0)) (fun t =>
    t.regs.res0 = 0x020000000001 && t.regs.res1 = 0x020000000002 && t.regs.res2 = 10 && t.regs.res3 = 64 &&
      t.regs.res4 = 0x08000001 && t.eng.rxTrunc = 1 && t.nic.rdt = 0 && t.eng.rxC = 1 &&
      readBytes t.mem 0x8008 4 = [0, 0, 0, 0] && readByte t.mem 0x8006 = 2 && (t.rxRecAt 0).sta = 0) = true := by
  decide +kernel

/-- Vectors X1 and X4: an empty slot, and a frame with an error. -/
theorem test_poll_no_data :
    after (exec .rxPoll (given up 0x8000 2048 0 0)) (fun t => t.statusWord = 0x802 && t.eng.rxC = 0 && t.nic.rdt = 7) = true ∧
    after (exec .rxPoll (given (received 64 1 frame1) 0x8000 2048 0 0))
      (fun t => t.statusWord = 0x802 && t.eng.rxC = 1 && t.nic.rdt = 0 && t.regs.res3 = 0) = true := by decide +kernel

/-- Vector L2. -/
theorem test_link_up :
    after (exec (.linkWait true) { State.reset with nic := { Nic.start with status := 2 } })
      (fun t => t.statusWord = 0x200 && t.regs.res2 = 1 && t.ports = [.regRead 8 2]) = true := by decide +kernel

/-- Vector L9 with one poll: only `B_LU` is examined. -/
theorem test_link_failed :
    after (exec (.linkWait true)
        { State.reset with
          cfg := { Config.refA with phyDownshift := false, linkPollCount := 1 }
          nic := { Nic.start with status := 0xFFFFFFFD } })
      (fun t => t.statusWord = 0x404 && t.regs.res2 = 0 && t.ports.length = 1) = true := by decide +kernel

/-- Vector F1: the register trace. -/
theorem test_filter_std : after (exec (.filterSet false 3) up) (fun t =>
    t.hostRead 0x3C = 3 && t.eng.rxStarted && t.ports =
      [.regWrite 0x100 0x8002, .regRead 0x100 0x8000, .release, .regWrite 0x100 0x8000, .regRead 0x100 0, .acquire]) =
    true := by decide +kernel

/-- Vector F10. -/
theorem test_filter_refused : after (exec (.filterSet true 3) (given up 0 1 0 0)) (fun t => t.statusWord = 0x806) = true := by
  decide +kernel

/-- Vector Q8. -/
theorem test_int_mask : after (exec .intMask (given State.reset 0 0x80 0 0)) (fun t =>
    t.hostRead 0x40 = 0x80 && t.nic.ims = 0x80 && t.ports = [.regWrite 0xD0 0x80, .regWrite 0xD8 0xFFFFFF7F]) = true := by
  decide +kernel

/-- Vectors Q1 and Q7. -/
theorem test_rx_enable :
    after (exec .rxEnable up) (fun t => t.statusWord = 0x1800 && t.nic.rxCtrl = 2) = true ∧
    after (exec .rxEnable upB)
      (fun t => t.statusWord = 0x804 && t.nic.rxCtrl = 0 && t.nic.rxqCtl = 0x02000000 && t.ports.length = 21) = true := by
  decide +kernel

/-- Vector Q2. -/
theorem test_rx_disable :
    after (exec .rxDisable
        { up with eng := { up.eng with rxStarted := true, filterMask := 3 }, nic := { up.nic with rxCtrl := 0x8002 } })
      (fun t => t.nic.rxCtrl = 0x8000 && t.hostRead 0x3C = 3 && t.statusWord = 0x800) = true := by decide +kernel

/-- Vectors Q3 and Q5. -/
theorem test_txq_enable :
    after (exec .txqEnable up) (fun t => t.statusWord = 0x2800 && t.nic.txCtrl = 2) = true ∧
    after (exec .txqEnable { upB with nic := { upB.nic with txqOn := true } })
      (fun t => t.statusWord = 0x2800 && t.nic.txCtrl = 2 && t.nic.txqCtl = 0x02000000) = true := by decide +kernel

/-- Vectors Q4 and Q6. -/
theorem test_txq_disable :
    after (exec .txqDisable { up with eng := { up.eng with txqEnabled := true }, nic := { up.nic with txCtrl := 2 } })
      (fun t => t.statusWord = 0x800 && t.nic.txCtrl = 0) = true ∧
    after (exec .txqDisable
        { upB with
          eng := { up.eng with txqEnabled := true }
          nic := { up.nic with txCtrl := 2, txqCtl := 0x02000000, txqOn := true } })
      (fun t => t.statusWord = 0x804 && t.nic.txCtrl = 0 && t.ports.length = 23 && !t.eng.txqEnabled) = true := by
  decide +kernel

/-! ### A state that meets the premises of each statement (a statement not named here has no premise) -/

theorem ready_of {s : State} (hc : configWf s.cfg = true) (he : s.eng.seq = .idle) (hf : s.eng.fault = false)
    (hi : s.inputs = []) (hl : s.lockOther = false) : s.Ready := ⟨hc, he, hf, hi, hl⟩

/-- Operand registers and mapper answers do not matter to `Ready`. -/
theorem ready_given {s : State} (h : s.Ready) (a0 : Addr) (a1 a2 : Word) (n : Nat) : (given s a0 a1 a2 n).Ready :=
  ⟨h.cfg, h.idle, h.fault, h.inputs, h.lock⟩

theorem ready_reset : State.reset.Ready := ready_of (by decide) rfl rfl rfl rfl

theorem ready_up : up.Ready := ready_of (by decide) rfl rfl rfl rfl

theorem ready_upB : upB.Ready := ready_of (by decide) rfl rfl rfl rfl

theorem ready_sent : sent.Ready := ready_of (by decide) rfl rfl rfl rfl

theorem ready_received (len : Half) (err : Byte) (data : List Byte) : (received len err data).Ready :=
  ready_of ready_up.cfg rfl rfl rfl rfl

theorem up_rx : ∀ i, i < 8 → (tableGet noRx up.eng.rxTab i).da ≠ 0 := by decide

/-- `RingOk` looks at the engine record and the ring-size bound only. -/
theorem ringOk_up {s : State} (he : s.eng = up.eng) (hc : 8 ≤ s.cfg.nMax) : s.RingOk where
  up _ :=
    { size := ⟨by rw [he]; decide, by rw [he]; exact hc⟩
      txW := by rw [he]; decide
      txC := by rw [he]; decide
      rxC := by rw [he]; decide
      run := ⟨0, by rw [he]; decide, by rw [he]; decide, fun i => by
        simp [State.slotFree, State.txBinding, he, up, Engine.reset, tableGet, noTx]⟩
      rx := fun i hi => by rw [he] at hi; rw [State.rxBinding, he]; exact up_rx i hi }
  down h := by rw [he] at h; exact absurd h (by decide)
  point l p h := by rw [he] at h; exact absurd h (by simp [up, Engine.reset])

theorem ringOk_sent {s : State} (he : s.eng = sent.eng) (hc : 8 ≤ s.cfg.nMax) : s.RingOk where
  up _ :=
    { size := ⟨by rw [he]; decide, by rw [he]; exact hc⟩
      txW := by rw [he]; decide
      txC := by rw [he]; decide
      rxC := by rw [he]; decide
      run := ⟨2, by rw [he]; decide, by rw [he]; decide, fun i => by
        rw [State.slotFree, State.txBinding, he]
        rcases i with _ | _ | i
        · decide
        · decide
        · simp [sent, up, Engine.reset, tableGet, noTx]; omega⟩
      rx := fun i hi => by rw [he] at hi; rw [State.rxBinding, he]; exact up_rx i hi }
  down h := by rw [he] at h; exact absurd h (by decide)
  point l p h := by rw [he] at h; exact absurd h (by simp [sent, up, Engine.reset])

theorem canonical_of {s : State} (hm : memWf s.mem = true) (ht : tableWf noTx s.eng.txTab = true)
    (hr : tableWf noRx s.eng.rxTab = true) (hc : tableWf (0 : Mac) s.eng.mcTable = true) : s.Canonical := ⟨hm, ht, hr, hc⟩

/-- A latch of the tests. -/
def latchOf (w : Word) (a0 : Addr) (a1 : Word) : Latch := { word := w, arg0 := a0, arg1 := a1, arg2 := 0 }

theorem test_premises_DecodeOfEncode : (Instr.filterSet true 31).wf = true ∧ (Instr.init 0xFFFF).wf = true := by decide

theorem test_premises_EncodeOfDecode : decode 0x001F0140 = .command (.filterSet true 31) := by decide

/-- The bounds of every range of R97. -/
theorem test_premises_ReservedOpcodeRefused : State.reset.Ready ∧
    [0x00, 0x02, 0x0F, 0x13, 0x1F, 0x21, 0x2F, 0x31, 0x3F, 0x42, 0x4F, 0x54, 0xFF].all (fun n : Nat =>
      (opcField (BitVec.ofNat 32 n)).toNat = n) = true := ⟨ready_reset, by decide⟩

/-- A word with one forbidden bit for each opcode; a command before INIT; a command that needs no INIT. -/
theorem test_premises_FieldConstraintsPerOpcode : up.Ready ∧
    ([(0x00000101, 0x0000FF00), (0x00000410, 0xFFFFFC00), (0x00008011, 0x0000FC00), (0x00000112, 0x0000FF00),
      (0x80000020, 0xFFFFFF00), (0x00000230, 0xFFFFFE00), (0x00200040, 0xFFE0FE00), (0x00000141, 0xFFFFFF00),
      (0x00010050, 0xFFFFFF00), (0x00000251, 0xFFFFFF00), (0x00000452, 0xFFFFFF00), (0x80000053, 0xFFFFFF00)]
      : List (Word × Word)).all (fun p => p.1 &&& p.2 != 0) = true ∧
    (State.reset.Ready ∧ State.reset.eng.hwInit = false ∧ (∀ n, Instr.rxPoll ≠ .init n) ∧
      (∀ cd, Instr.rxPoll ≠ .linkWait cd) ∧ Instr.rxPoll ≠ .intMask) ∧
    (State.reset.eng.fault = false ∧ decode (latchOf 0x00000041 0 0).word = .command .intMask) :=
  ⟨ready_up, by decide, ⟨ready_reset, rfl, fun _ => Instr.noConfusion, fun _ => Instr.noConfusion, Instr.noConfusion⟩,
    rfl, by decide⟩

theorem test_premises_StepRunsTheDecodedCommand : configWf up.cfg = true ∧ up.eng.seq = .idle ∧
    (up.withFetchWord 32 0x30).inputs = .host (.write 0 0x30) :: [] ∧ decode 0x30 = .command (.linkWait false) ∧
    decode 0x13 = .reject .reservedOpcode ∧ (∀ w, Input.nic .transmit ≠ .host (.write 0 w)) ∧
    (up.goto (latchOf 0x30 0 0) .decode).eng.seq ≠ .idle ∧ decodeTableWord 32 0x30 = some (.linkWait false) :=
  ⟨by decide, rfl, by decide, by decide, by decide, fun _ h => Input.noConfusion h, by decide, by decide⟩

/-- One configuration for each way to be ill formed. -/
theorem test_premises_IllFormedConfigurationRefused :
    ({ Config.refA with txRingBase := 0x10040 } : Config).txRingBase.toNat % 128 ≠ 0 ∧
    ({ Config.refA with rxRingBase := 0x20001 } : Config).rxRingBase.toNat % 128 ≠ 0 ∧
    regOffset { Config.refA with oTdt := 0x3819 } .tdt % 4 ≠ 0 ∧
    (Config.refA.txRingBase.toNat ≤ 0x10F80 ∧ 0x10F80 < Config.refA.txRingBase.toNat + 16 * Config.refA.nMax ∧
      ({ Config.refA with rxRingBase := 0x10F80 } : Config).rxRingBase.toNat ≤ 0x10F80) ∧
    2 ^ 64 < ({ Config.refA with txRingBase := 0xFFFFFFFFFFFFFF80 } : Config).txRingBase.toNat + 16 * Config.refA.nMax ∧
    0xFFFF < ({ Config.refA with nMax := 0x10000 } : Config).nMax ∧ 0xFF < ({ Config.refA with maxFrags := 0x100 } : Config).maxFrags ∧
    0xFF < ({ Config.refA with maxMcast := 0x100 } : Config).maxMcast ∧ ({ Config.refA with bLu := 0 } : Config).bLu = 0 ∧
    ({ Config.refA with bQen := 3 } : Config).bQen &&& (({ Config.refA with bQen := 3 } : Config).bQen - 1) ≠ 0 := by decide

theorem test_premises_EveryCommandEndsOrWaitsForTheLock :
    configWf { up with lockOther := true }.cfg = true ∧ { up with lockOther := true }.eng.seq = .idle := by decide

/-- An idle machine whose next input starts TX.SEND, and its step. -/
def aboutToSend : State := { given up 0x40000 60 0 1 with inputs := [.host (.write 0 0x10)] }

/-- The same machine inside TX.SEND, between `Acquire()` and the descriptor write. -/
def sending : State :=
  { given up 0x40000 60 0 0 with
    eng := { up.eng with seq := .running (latchOf 0x10 0x40000 60) (.tx (.sendWrite 0x40000)), lockHeld := true } }

theorem test_premises_invariants : aboutToSend.Canonical ∧ aboutToSend.LockOk ∧ aboutToSend.RingOk ∧ aboutToSend.TailsOk ∧
    aboutToSend.FilterOk ∧ aboutToSend.FaultOk ∧ Input.reset ∉ aboutToSend.inputs ∧ ∃ t, step aboutToSend = .next t := by
  refine ⟨canonical_of (by decide) (by decide) (by decide) (by decide), ⟨rfl, fun h => absurd h (by decide)⟩,
    ringOk_up rfl (by decide), ⟨fun _ => by decide, fun _ _ => by decide, fun _ _ _ _ => rfl⟩,
    ⟨.inl rfl, by decide, by decide, fun l acc late h => absurd h (by rw [show aboutToSend.eng.seq = .idle from rfl]; simp),
      fun l p h => absurd h (by rw [show aboutToSend.eng.seq = .idle from rfl]; simp)⟩, by unfold State.FaultOk; decide, by decide, ?_⟩
  obtain ⟨t, h, -⟩ := next_of_after (o := step aboutToSend) (p := fun _ => true) (by decide +kernel)
  exact ⟨t, h⟩

/-- The same premises in the middle of a command. -/
theorem test_premises_invariants_running : sending.Canonical ∧ sending.LockOk ∧ sending.RingAt (latchOf 0x10 0x40000 60)
    (.tx (.sendWrite 0x40000)) ∧ Input.reset ∉ sending.inputs ∧ ∃ t, step sending = .next t := by
  refine ⟨canonical_of (by decide) (by decide) (by decide) (by decide), ⟨rfl, fun _ => rfl⟩, ⟨rfl, by decide, by decide⟩,
    by decide, ?_⟩
  obtain ⟨t, h, -⟩ := next_of_after (o := step sending) (p := fun _ => true) (by decide +kernel)
  exact ⟨t, h⟩

/-- `up` inside FILTER.SET, after receive was stopped for the change of the receive-control word. -/
def pausedForChange : State :=
  { up with
    eng := { up.eng with
      seq := .running (latchOf 0x00030040 0 0) (.filter (.ctrlWrite 0 true false))
      filterMask := 1
      lockHeld := true } }

theorem test_premises_FilterStateKept : pausedForChange.FilterOk ∧ ∃ t, step pausedForChange = .next t := by
  refine ⟨⟨.inr (by decide), by decide, by decide, fun l acc late h => absurd h (by simp [pausedForChange]), ?_⟩, ?_⟩
  · intro l p h
    simp only [pausedForChange, Seq.running.injEq] at h
    obtain ⟨-, rfl⟩ := h
    exact rfl
  · obtain ⟨t, h, -⟩ := next_of_after (o := step pausedForChange) (p := fun _ => true) (by decide +kernel)
    exact ⟨t, h⟩

/-- `up` with the sticky fault and the overrun bit set. -/
def faulted : State := { up with eng := { up.eng with fault := true, faultCause := .headOutOfRange, ovr := true } }

theorem test_premises_FaultAndOverrunAreSticky : faulted.FaultOk ∧ Input.reset ∉ faulted.inputs ∧ faulted.eng.fault = true ∧
    faulted.eng.seq = .idle ∧ faulted.eng.ovr = true ∧ step faulted = .next faulted :=
  ⟨by unfold State.FaultOk; decide, by decide, rfl, rfl, rfl, rfl⟩

theorem test_premises_ParametersConstant : step State.reset = .next State.reset := rfl

theorem test_premises_ResetInput : { sending with inputs := [.reset] }.inputs = .reset :: [] ∧
    configWf { up with inputs := [.reset] }.cfg = true ∧ { up with inputs := [.reset] }.eng.seq = .idle := by decide

theorem test_premises_HostWrites : 0x04 ≠ 0x00 ∧ 0x04 ≠ 0x08 ∧ 0x04 ≠ 0x0C ∧ 0x04 ≠ 0x10 ∧ 0x04 ≠ 0x14 := by decide

theorem test_premises_CommandStartLatchesTheOperands : up.eng.seq = .idle ∧
    sending.eng.seq = .running (latchOf 0x10 0x40000 60) (.tx (.sendWrite 0x40000)) := ⟨rfl, rfl⟩

theorem test_premises_CommandOverrun : sending.eng.seq ≠ .idle ∧ configWf sending.cfg = true :=
  ⟨by decide, by decide⟩

theorem test_premises_FaultedBlockRunsNothing : configWf faulted.cfg = true ∧ faulted.eng.seq = .idle ∧ faulted.inputs = [] ∧
    faulted.eng.fault = true := by decide

/-- The smallest and the largest ring, with the largest buffers. -/
theorem test_premises_InitSetsUpTheRings :
    (∀ n : Half, n = 2 ∨ n = 256 → (given State.reset 0x100000 16384 0 256).InitLegal n ∧
      ∀ j, j < n.toNat → (given State.reset 0x100000 16384 0 256).answer j ≠ .fail) ∧
    (given State.reset 0x100000 16384 0 256).Ready ∧ (given State.reset 0x100000 16384 0 256).Canonical := by
  have ha : ∀ j, j < 256 → (given State.reset 0x100000 16384 0 256).answer j ≠ .fail := by
    intro j hj
    have h : (given State.reset 0x100000 16384 0 256).answer j = .ok 0 := List.getD_replicate _ hj
    rw [h]
    exact fun e => MapAnswer.noConfusion e
  refine ⟨?_, ready_given ready_reset _ _ _ _, canonical_of rfl rfl rfl rfl⟩
  rintro n (rfl | rfl)
  · exact ⟨⟨rfl, by decide, by decide, by decide, by decide, by decide⟩, fun j hj => ha j (by simp at hj; omega)⟩
  · exact ⟨⟨rfl, by decide, by decide, by decide, by decide, by decide⟩, fun j hj => ha j (by simpa using hj)⟩

/-- A machine before INIT whose mapper answers `ms`. -/
def mapping (ms : List MapAnswer) : State := { given State.reset 0x100000 2048 0 0 with mapper := ms }

theorem ready_mapping (ms : List MapAnswer) : (mapping ms).Ready := ready_of ready_reset.cfg rfl rfl rfl rfl

theorem initLegal_mapping (ms : List MapAnswer) : (mapping ms).InitLegal 2 :=
  have h : (mapping []).InitLegal 2 := ⟨rfl, by decide, by decide, by decide, by decide, by decide⟩
  ⟨h.first, h.size, h.buf, h.pool, h.range, h.apart⟩

/-- The failure at the first and at the last buffer. -/
theorem test_premises_InitMappingFailureIsUndone :
    (∀ ms : List MapAnswer, (mapping ms).Ready ∧ (mapping ms).InitLegal 2 ∧ (mapping ms).Canonical) ∧
    (mapping [.fail]).answer 0 = .fail ∧ (mapping [.ok 0, .fail]).answer 1 = .fail ∧
    (mapping [.ok 0, .fail]).answer 0 ≠ .fail :=
  ⟨fun ms => ⟨ready_mapping ms, initLegal_mapping ms, canonical_of rfl rfl rfl rfl⟩, rfl, rfl,
    fun h => MapAnswer.noConfusion h⟩

theorem test_premises_InitRefused : (given State.reset 0x100000 2048 0 0).Ready ∧
    ¬ (given State.reset 0x100000 2048 0 0).InitLegal 1 ∧ ¬ (given State.reset 0x100000 2048 0 0).InitLegal 257 :=
  ⟨ready_given ready_reset _ _ _ _, fun h => absurd h.size (by decide), fun h => absurd h.size (by decide)⟩

/-- Length 1 without a tag, length 0xFFFF with one, and Family B with its queue enabled. -/
theorem test_premises_TxSendHandsTheFrameOver : (given up 0x40000 1 0 0).Ready ∧ (given up 0x40000 1 0 0).Canonical ∧
    (given up 0x40000 1 0 0).eng.hwInit = true ∧ (given up 0x40000 1 0 0).SendLegal false ∧
    (given up 0x40000 0xFFFF 0xFFFF 0).SendLegal true ∧ (given up 0x40000 1 0 0).slotFree up.eng.txW.toNat = true ∧
    { given upB 0x40000 1 0 0 with eng := { upB.eng with txqEnabled := true } }.SendLegal false :=
  ⟨ready_given ready_up _ _ _ _, canonical_of (by decide) (by decide) (by decide) (by decide), rfl,
    ⟨by decide, by decide, by decide, by decide, by decide⟩, ⟨by decide, by decide, by decide, by decide, by decide⟩,
    by decide, ⟨by decide, by decide, by decide, by decide, by decide⟩⟩

/-- The wait: a slot that is done and one that is not, and a blocking command with reads to make. -/
theorem test_premises_waits : (sent.txRecAt 0).sta.getLsbD 0 = true ∧ (up.txRecAt 0).sta.getLsbD 0 = false ∧
    0 + 1 < up.cfg.txPollCount ∧ (latchOf 0x110 0x40000 60).f0 = true ∧ 0 < up.cfg.txPollCount := by decide

/-- Length 0; a legal one with its slot bound; Family B with the queue closed. -/
theorem test_premises_TxSendRefusedOrBusy : (given sent 0x40000 60 0 0).Ready ∧ ¬ (given up 0x40000 0 0 0).SendLegal false ∧
    ¬ (given upB 0x40000 60 0 0).SendLegal false ∧
    { given sent 0x40000 60 0 0 with eng := { sent.eng with txW := 1 } }.SendLegal false ∧
    { given sent 0x40000 60 0 0 with eng := { sent.eng with txW := 1 } }.slotFree 1 = false :=
  ⟨ready_given ready_sent _ _ _ _, fun h => absurd h.len (by decide), fun h => absurd (h.tx.queue rfl) (by decide),
    ⟨by decide, by decide, by decide, by decide, by decide⟩, by decide⟩

/-- The list of `listed` holds its first fragments. -/
theorem listHolds_listed (a1 a2 : Word) (n : Nat) :
    (given listed 0x7000 a1 a2 n).ListHolds [⟨0x50000, 100⟩, ⟨0x51000, 200⟩, ⟨0x52000, 300⟩] := by
  intro j f h
  rcases j with _ | _ | _ | j
  · cases h; exact (by decide : fragOf (readDesc listed.mem (entryAddr 0x7000 16 0)) = some ⟨0x50000, 100⟩)
  · cases h; exact (by decide : fragOf (readDesc listed.mem (entryAddr 0x7000 16 1)) = some ⟨0x51000, 200⟩)
  · cases h; exact (by decide : fragOf (readDesc listed.mem (entryAddr 0x7000 16 2)) = some ⟨0x52000, 300⟩)
  · cases h

theorem test_premises_TxSendfHandsTheFragmentsOver : (given listed 0x7000 0 0 3).Ready ∧ (given listed 0x7000 0 0 3).Canonical ∧
    (given listed 0x7000 0 0 3).RingOk ∧ (given listed 0x7000 0 0 3).SendfLegal false 3 ∧
    (given listed 0x7000 0 0xFFFF 3).SendfLegal true 8 ∧
    (given listed 0x7000 0 0 3).ListHolds [⟨0x50000, 100⟩, ⟨0x51000, 200⟩, ⟨0x52000, 300⟩] ∧
    (given listed 0x7000 0 0 3).slotsFree 3 = true :=
  ⟨ready_of (by decide) rfl rfl rfl rfl, canonical_of (by decide) (by decide) (by decide) (by decide),
    ringOk_up rfl (by decide), ⟨by decide, by decide, by decide, by decide, by decide⟩,
    ⟨by decide, by decide, by decide, by decide, by decide⟩, listHolds_listed _ _ _, by decide⟩

/-- No fragment and nine; an entry of zeros; a bound third slot. -/
theorem test_premises_TxSendfRefusedOrBusy : (given listed 0x7000 0 0 0).Ready ∧ (given listed 0x7000 0 0 0).eng.hwInit = true ∧
    ¬ (given listed 0x7000 0 0 0).SendfLegal false 0 ∧ ¬ (given listed 0x7000 0 0 0).SendfLegal false 9 ∧
    (given listed 0x7000 0 0 0).SendfLegal false 4 ∧
    fragOf (readDesc (given listed 0x7000 0 0 0).mem (entryAddr 0x7000 16 3)) = none ∧
    (given listed 0x7000 0 0 0).SendfLegal false 3 ∧
    { given listed 0x7000 0 0 0 with eng := { up.eng with txTab := [(2, ⟨1, 1, 1⟩)] } }.slotsFree 3 = false :=
  ⟨ready_of (by decide) rfl rfl rfl rfl, rfl, fun h => absurd h.count (by decide), fun h => absurd h.count (by decide),
    ⟨by decide, by decide, by decide, by decide, by decide⟩, by decide,
    ⟨by decide, by decide, by decide, by decide, by decide⟩, by decide⟩

/-- The longest fragment ends at the top of memory; one byte more is illegal. -/
theorem test_premises_FragmentEntryCheck :
    fragOf (0xFFFF#64 ++ 0xFFFFFFFFFFFF0001#64) = some ⟨0xFFFFFFFFFFFF0001, 0xFFFF⟩ ∧
    fragOf (0xFFFF#64 ++ 0xFFFFFFFFFFFF0002#64) = none := by decide

/-- A transmit that finds the lock held by other software. -/
def contended : State := { given up 0x40000 60 0 1 with lockOther := true }

theorem test_premises_AcquireWaitsForTheLock : configWf contended.cfg = true ∧ contended.eng.seq = .idle ∧
    contended.eng.fault = false ∧ contended.inputs = [] ∧ contended.lockOther = true ∧ contended.eng.hwInit = true ∧
    contended.SendLegal false ∧ contended.slotFree contended.eng.txW.toNat = true ∧
    (Point.filter (.acquire .ctrl false)).isAcquire = true ∧ up.lockOther = false :=
  ⟨by decide, rfl, rfl, rfl, rfl, rfl, ⟨by decide, by decide, by decide, by decide, by decide⟩, by decide, rfl, rfl⟩

theorem test_premises_TransmitStepsFrame : (∃ q, Point.tx .sendMap = .tx q) ∧ ∃ q, Point.reclaim .head = .reclaim q :=
  ⟨⟨_, rfl⟩, ⟨_, rfl⟩⟩

theorem test_premises_TxReclaimOfNothing : up.Ready ∧ up.eng.hwInit = true ∧ ¬ (given up 0 0 0 0).ReclaimLegal 1 ∧
    (given up 0x9000 0 0 0).ReclaimLegal 1 ∧ (given up 0x9000 0 0 0).RingOk ∧
    (given up 0x9000 0 0 0).slotFree up.eng.txC.toNat = true ∧ up.nic.tdh.toNat = up.eng.txC.toNat :=
  ⟨ready_up, rfl, fun h => absurd (h (by decide)).1 (by decide), fun _ => by decide, ringOk_up rfl (by decide), by decide, rfl⟩

/-- The head at N, and at N - 1 with an empty ring. -/
theorem test_premises_CorruptHeadRaisesTheFault : (given up 0x9000 0 0 0).Ready ∧ (given up 0x9000 0 0 0).RingOk ∧
    (given up 0x9000 0 0 0).ReclaimLegal 0xFFFF ∧ up.eng.n.toNat ≤ (8 : Word).toNat ∧ (7 : Word).toNat < up.eng.n.toNat ∧
    (¬ ∃ j, j ≤ (up.eng.txW.toNat + up.eng.n.toNat - up.eng.txC.toNat) % up.eng.n.toNat ∧
      (7 : Word).toNat = (up.eng.txC.toNat + j) % up.eng.n.toNat) ∧
    up.slotFree up.eng.txW.toNat = true := by
  refine ⟨ready_given ready_up _ _ _ _, ringOk_up rfl (by decide), fun _ => by decide, by decide, by decide, ?_, by decide⟩
  rintro ⟨j, hj, h⟩
  simp [up, Engine.reset] at hj h
  omega

theorem test_premises_TxReclaimWalksTheCompletedSlots : (given sent 0x9000 0 0 0).Ready ∧ (given sent 0x9000 0 0 0).Canonical ∧
    (given sent 0x9000 0 0 0).RingOk ∧ (given sent 0x9000 0 0 0).ReclaimLegal 8 ∧
    overlapsRings sent.cfg 0x9000 64 = false ∧ sent.nic.tdh.toNat < sent.eng.n.toNat ∧ sent.headInSpan 2 = true :=
  ⟨ready_given ready_sent _ _ _ _, canonical_of (by decide) (by decide) (by decide) (by decide), ringOk_sent rfl (by decide),
    fun _ => by decide, by decide, by decide, by decide⟩

/-- A destination that wraps, a closed queue, and an empty slot. -/
theorem test_premises_RxPollRefusedOrEmpty : up.Ready ∧ up.eng.hwInit = true ∧
    ¬ (given up 0xFFFFFFFFFFFFFFF0 17 0 0).PollLegal ∧ (given up 0xFFFFFFFFFFFFFFF0 16 0 0).PollLegal ∧ ¬ upB.PollLegal ∧
    (up.rxRecAt 0).sta.getLsbD 0 = false ∧ (up.rxRecAt 0).sta.getLsbD 1 = false :=
  ⟨ready_up, rfl, fun h => absurd (h.dst (by decide)).2 (by decide), ⟨by decide, by decide⟩,
    fun h => absurd (h.queue rfl) (by decide), by decide, by decide⟩

theorem test_premises_RxPollDropsBadFrames : (received 0 0 []).Ready ∧ (received 0 0 []).Canonical ∧
    (received 0 0 []).PollLegal ∧ rxDone Config.refA ((received 0 0 []).rxRecAt 0) = true ∧
    ((received 0 0 []).rxRecAt 0).length = 0 ∧ ((received 64 0x80 []).rxRecAt 0).errors ≠ 0 :=
  ⟨ready_received _ _ _, canonical_of (by decide) (by decide) (by decide) (by decide), ⟨by decide, by decide⟩, by decide,
    by decide, by decide⟩

theorem test_premises_RxPollDeliversTheFrame : (given (received 64 0 frame1) 0x8000 10 0 0).Ready ∧
    (given (received 64 0 frame1) 0x8000 10 0 0).Canonical ∧ (given (received 64 0 frame1) 0x8000 10 0 0).PollLegal ∧
    rxDone Config.refA ((received 64 0 frame1).rxRecAt 0) = true ∧ ((received 64 0 frame1).rxRecAt 0).length = 64 ∧
    ((received 64 0 frame1).rxRecAt 0).errors = 0 ∧
    (∀ a, inRange a 0x8000 10 →
      ¬ inRange a (rxSlotAddr Config.refA 0) 16 ∧ ¬ inRange a ((received 64 0 frame1).rxBinding 0).va 2048) := by
  refine ⟨ready_given (ready_received _ _ _) _ _ _ _, canonical_of (by decide +kernel) (by decide) (by decide) (by decide),
    ⟨by decide, by decide⟩, by decide +kernel, by decide +kernel, by decide +kernel, fun a h => ⟨?_, ?_⟩⟩
  · exact not_inRange_of_apart (c := 0x8000) (a := 0x20000) (n := 10) (m := 16) (by decide) (by decide) (by decide) h
  · exact not_inRange_of_apart (c := 0x8000) (a := 0x100000) (n := 10) (m := 2048) (by decide) (by decide) (by decide) h

theorem test_premises_LinkWait : State.reset.Ready ∧ 0 < Config.refA.linkPollCount ∧
    (2 : Word) &&& Config.refA.bLu ≠ 0 ∧ (0xFFFFFFFD : Word) &&& Config.refA.bLu = 0 ∧ Config.refA.phyDownshift = true ∧
    (0x8000 : Half) &&& Config.refA.phyMask ≠ 0 ∧ 0 < Config.refA.phyProbeCount ∧
    { up.nic with status := 2 }.status &&& up.cfg.bLu ≠ 0 ∧ up.nic.status &&& up.cfg.bLu = 0 ∧ up.cfg.linkSettleUs = 0 ∧
    0 < { up.cfg with linkSettleUs := 100 }.linkSettleUs ∧ 498 + 1 < up.cfg.linkPollCount ∧
    13 + 1 < up.cfg.downshiftPollCount := ⟨ready_reset, by decide⟩

/-- The ways the probe of the PHY can end without a retry: the family has none, the indicator does not show, no read is made. -/
theorem test_premises_LinkWaitGivesUp_probe : { Config.refA with phyDownshift := false }.phyDownshift = false ∧
    (0 : Half) &&& Config.refA.phyMask = 0 ∧ { Config.refA with phyProbeCount := 0 }.phyProbeCount = 0 := by decide

theorem test_premises_FilterSetRefused : (given up 0 1 0 0).Ready ∧ (given up 0 1 0 0).eng.hwInit = true ∧
    ¬ (given up 0 1 0 0).FilterLegal true ∧ ¬ (given up 0xFFFFFFFFFFFFFFFB 1 0 0).FilterLegal true :=
  ⟨ready_given ready_up _ _ _ _, rfl, fun h => absurd (h rfl (by decide)).1 (by decide),
    fun h => absurd (h rfl (by decide)).2 (by decide)⟩

/-- A list of more than `P_MAX_MCAST` addresses, and no list; below, for each way the queue and the pause can stand, Family B with
its queue on or off and receive started or not. -/
theorem test_premises_FilterSetEffect : (given up 0x6000 10 0 0).Ready ∧ (given up 0x6000 10 0 0).Canonical ∧
    (given up 0x6000 10 0 0).eng.hwInit = true ∧ (given up 0x6000 10 0 0).eng.lockHeld = false ∧ (31 : Half).toNat < 32 ∧
    (given up 0x6000 10 0 0).FilterLegal true ∧ (given up 0x6000 10 0 0).listCount = 8 ∧ up.FilterLegal false :=
  ⟨ready_given ready_up _ _ _ _, canonical_of (by decide) (by decide) (by decide) (by decide), rfl, rfl, by decide,
    fun _ _ => by decide, by decide, fun h => absurd h (by decide)⟩

theorem test_premises_FilterSetEffect_steps : (up.eng.rxStarted && (true || false)) = false ∧
    ({ up.eng with rxStarted := true }.rxStarted && (true || false)) = true ∧
    (!upB.cfg.queueHandshake || (decide (0 < upB.cfg.queuePollCount) && upB.nic.rxqOn)) = false ∧
    (!upB.cfg.queueHandshake || (decide (0 < upB.cfg.queuePollCount) && !upB.nic.rxqOn)) = true ∧
    (!upB.cfg.queueHandshake || (decide (0 < upB.cfg.queuePollCount) && { upB.nic with rxqOn := true }.rxqOn)) = true ∧
    up.cfg.bRxEn &&& (up.cfg.bUpe ||| up.cfg.bMpe ||| up.cfg.bBam) = 0 ∧ up.lockOther = false ∧
    up.cfg.queueHandshake = false := by decide

theorem test_premises_FilterSetTwiceIsOnce : (given up 0x6000 2 0 0).Ready ∧ (given up 0x6000 2 0 0).Canonical ∧
    (given up 0x6000 2 0 0).FilterLegal true ∧
    ∃ t, exec (.filterSet true 7) (given up 0x6000 2 0 0) = .next t ∧ decide (t.regs.code = .success) = true :=
  ⟨ready_given ready_up _ _ _ _, canonical_of (by decide) (by decide) (by decide) (by decide), fun _ _ => by decide,
    next_of_after (by decide +kernel)⟩

/-- Family A; Family B with a queue that answers and with one that does not. -/
theorem test_premises_queue_commands : up.Ready ∧ upB.Ready ∧ up.eng.hwInit = true ∧ upB.eng.hwInit = true ∧
    true = (!up.cfg.queueHandshake || (decide (0 < up.cfg.queuePollCount) && up.nic.rxqOn)) ∧
    false = (!upB.cfg.queueHandshake || (decide (0 < upB.cfg.queuePollCount) && upB.nic.rxqOn)) ∧
    true = (!upB.cfg.queueHandshake || (decide (0 < upB.cfg.queuePollCount) && !upB.nic.txqOn)) :=
  ⟨ready_up, ready_upB, by decide⟩

/-- A queue that shows its enable bit and one that does not, with reads left and with none, at the last read before either. -/
theorem test_premises_queue_polls :
    { upB with nic := { upB.nic with rxqOn := true } }.regVal (queueReg .rx) &&& upB.cfg.bQen ≠ 0 ∧
    upB.regVal (queueReg .rx) &&& upB.cfg.bQen = 0 ∧
    upB.cfg.queuePollCount - 2 + 1 < upB.cfg.queuePollCount ∧ ¬ upB.cfg.queuePollCount - 1 + 1 < upB.cfg.queuePollCount := by
  decide

theorem test_premises_IntMaskSetsTheMask : State.reset.Ready := ready_reset

theorem test_premises_OnlyLinkWaitChangesTheLink :
    (engineStep (latchOf 0x130 0 0) (.link (.read 0)) { up with nic := { up.nic with status := 2 } }).eng.link ≠ up.eng.link ∧
    (engineStep (latchOf 0x130 0 0) .decode up).eng.link ≠ up.eng.link ∧ Input.await ≠ .reset := by decide

theorem test_premises_RingSizeIsFixedByInit :
    (engineStep (latchOf 0x80001 0x100000 2048) (.init (.program 10)) State.reset).eng.hwInit ≠ State.reset.eng.hwInit ∧
    (engineStep (latchOf 0x20 0x8000 10) (.rx (.copy 64 10)) up).eng.rxTrunc ≠ up.eng.rxTrunc := by decide

/-- A machine whose NIC may take a transmit step on a mapped frame. -/
def nicMaySend : State :=
  { holding up 0x10000 (descBytes (packTx (txDesc 0x40000 60 0x0B 0))) with
    nic := { up.nic with tdt := 1, txCtrl := 2 }
    maps := [⟨0x40000, 0x40000, 60⟩] }

/-- Vector-like: the step puts the frame of 60 bytes on the wire, sets DD and moves the head (20_memory.md R80, R88). -/
theorem test_nic_transmit :
    ((nicMaySend.nicStep .transmit).wire.map List.length == [60] && ((nicMaySend.nicStep .transmit).txRecAt 0).sta == 1 &&
      (nicMaySend.nicStep .transmit).nic.tdh == 1) = true := by decide +kernel

theorem test_premises_NicTransmitStep : nicMaySend.Canonical ∧ nicMaySend.txStepEnabled = true ∧
    nicMaySend.deviceRange (decodeTx nicMaySend.cfg (readDesc nicMaySend.mem 0x10000)).addr 60 = some 0x40000 ∧
    (decodeTx nicMaySend.cfg (readDesc nicMaySend.mem 0x10000)).length = 60 :=
  ⟨canonical_of (by decide) (by decide) (by decide) (by decide), by decide, by decide +kernel, by decide⟩

/-- A machine whose NIC may take a receive step into a mapped buffer. -/
def nicMayReceive : State :=
  { holding up 0x20000 (descBytes (packRx (rxInit 0x100000))) with
    nic := { up.nic with rxCtrl := 2 }
    maps := [⟨0x100000, 0x100000, 2048⟩] }

theorem test_premises_NicReceiveStep : nicMayReceive.Canonical ∧ nicMayReceive.rxStepEnabled = true ∧
    frame1.length ≤ nicMayReceive.eng.b.toNat ∧
    lookupMapping (decodeRx nicMayReceive.cfg (readDesc nicMayReceive.mem 0x20000)).addr.toNat 64 nicMayReceive.maps =
      some 0x100000 ∧
    (∀ b, inRange b 0x100000 64 → ¬ inRange b 0x20000 16) :=
  ⟨canonical_of (by decide) (by decide) (by decide) (by decide), by decide, by decide, by decide,
    fun _ h => not_inRange_of_apart (c := 0x100000) (a := 0x20000) (n := 64) (m := 16) (by decide) (by decide) (by decide) h⟩

theorem test_premises_NicKeepsToItsContract : (∀ v, NicStep.transmit ≠ .corruptHead v) ∧ Config.refA.bLu ≠ 0 ∧
    upB.cfg.queueHandshake = true ∧ (up.nic.tdh = up.nic.tdt ∧ up.nic.txCtrl &&& up.cfg.bTxEn = 0 ∧ upB.nic.txqOn = false) ∧
    ({ up.nic with rdt := 0 }.rdh = { up.nic with rdt := 0 }.rdt ∧ up.nic.rxCtrl &&& up.cfg.bRxEn = 0 ∧ upB.nic.rxqOn = false) :=
  ⟨fun _ => NicStep.noConfusion, by decide, rfl, by decide, by decide⟩

/-- R261: before INIT the host's stop leaves the enables clear and the other bits; its reset leaves the enables clear and other registers
as the reset chose; after INIT neither is made. -/
theorem test_host_stops_or_resets_nic :
    ({ State.reset with nic := { Nic.start with rxCtrl := 0x8006, txCtrl := 0x0A } }.hostStep .stopNic).nic =
      { Nic.start with rxCtrl := 0x8004, txCtrl := 0x08 } ∧
    (State.reset.hostStep (.resetNic { Nic.start with rxCtrl := 0x8006, tdh := 7, phy := 3 })).nic =
      { Nic.start with rxCtrl := 0x8004, tdh := 7, phy := 3 } ∧
    up.hostStep .stopNic = up ∧ up.hostStep (.resetNic Nic.start) = up := by decide

/-- The first and the last byte of a ring region, and bytes of a bound transmit and receive buffer. -/
theorem test_premises_HostKeepsOffTheBlocksMemory :
    (sent.cfg.txRingBase.toNat ≤ 0x10000 ∧ 0x10FFF < sent.cfg.txRingBase.toNat + 16 * sent.cfg.nMax) ∧
    (sent.cfg.rxRingBase.toNat ≤ 0x20000 ∧ 0x20FFF < sent.cfg.rxRingBase.toNat + 16 * sent.cfg.nMax) ∧
    (∃ e ∈ sent.eng.txTab, e.2.va.toNat ≤ 0x4003B ∧ 0x4003B < e.2.va.toNat + e.2.len.toNat) ∧
    (∃ e ∈ sent.eng.rxTab, e.2.va.toNat ≤ 0x103FFF ∧ 0x103FFF < e.2.va.toNat + sent.eng.b.toNat) ∧
    (∀ off v, HostStep.load 0 ≠ .write off v) := by
  refine ⟨by decide, by decide, ⟨(0, ⟨0x40000, 0x40000, 60⟩), by decide, by decide⟩,
    ⟨(7, ⟨0x103800, 0x103800⟩), by decide, by decide⟩, fun _ _ => HostStep.noConfusion⟩

theorem test_premises_AdvanceWrapsAtTheRingSize : (255 : Half).toNat < (256 : Half).toNat ∧ 0 < (1 : Half).toNat := by decide

/-- One address for each frame type (vectors X9 to X12). -/
theorem test_premises_ClassifyPrecedence : (0x020000000001 : Mac) = Config.refA.adapterMac ∧
    (0xFFFFFFFFFFFF : Mac) ≠ Config.refA.adapterMac ∧ (0x030000000001 : Mac).getLsbD 40 = true ∧
    (0x020000000009 : Mac).getLsbD 40 = false := by decide

theorem test_premises_NumbersAreLittleEndian : memWf up.mem = true ∧ 2 ^ 128 - 1 < 256 ^ 16 := by decide

end Sys2Proof.Tests
end

/-! ## What the inputs leave of a running command, and the parameters (00_scope.md R7) -/

section

namespace Sys2Proof.Machine

/-- `t` has the parameters and the inputs to come of `s`, and stands where the running command of `s` stands. -/
structure State.SameCourse (s t : State) : Prop where
  cfg : t.cfg = s.cfg
  inputs : t.inputs = s.inputs
  seq : s.eng.seq ≠ .idle → t.eng.seq = s.eng.seq

/-- A step of the NIC acts on memory, the NIC and the wire alone (20_memory.md R79). -/
theorem nicStep_frame (s : State) (n : NicStep) : ∃ m d w, s.nicStep n = { s with mem := m, nic := d, wire := w } := by
  cases n with
  | transmit =>
    rcases nicTransmit_cases s _ _ rfl rfl with ⟨_, e⟩ | ⟨_, _, _, e⟩
    · exact ⟨_, _, _, e⟩
    · exact ⟨_, _, _, e⟩
  | receive data wb =>
    rcases nicReceive_cases s data wb _ rfl with e | ⟨_, _, _, _, e⟩
    · exact ⟨_, _, _, e⟩
    · exact ⟨_, _, _, e⟩
  | link up => exact ⟨_, _, _, rfl⟩
  | phy v => exact ⟨_, _, _, rfl⟩
  | queue q =>
    simp only [State.nicStep, State.nicQueue]
    split
    · cases q with
      | rx => exact ⟨_, _, _, rfl⟩
      | tx => exact ⟨_, _, _, rfl⟩
    · exact ⟨_, _, _, rfl⟩
  | corruptHead v => exact ⟨_, _, _, rfl⟩

theorem nicStep_course (s : State) (n : NicStep) : s.SameCourse (s.nicStep n) := by
  obtain ⟨m, d, w, e⟩ := nicStep_frame s n
  rw [e]
  exact ⟨rfl, rfl, fun _ => rfl⟩

/-- A register write starts no command while one runs (60_exceptions.md R233). -/
theorem hostWrite_course (s : State) (off : Nat) (v : Word) : s.SameCourse (s.hostWrite off v) := by
  unfold State.hostWrite
  split
  · unfold State.cmdWrite
    split
    · next hq => exact ⟨rfl, rfl, fun h => absurd hq h⟩
    · exact ⟨rfl, rfl, fun _ => rfl⟩
  all_goals exact ⟨rfl, rfl, fun _ => rfl⟩

theorem hostStep_course (s : State) (h : HostStep) : s.SameCourse (s.hostStep h) := by
  cases h with
  | write off v => exact hostWrite_course s off v
  | read off => exact ⟨rfl, rfl, fun _ => rfl⟩
  | store a bytes =>
    simp only [State.hostStep]
    split <;> exact ⟨rfl, rfl, fun _ => rfl⟩
  | load a => exact ⟨rfl, rfl, fun _ => rfl⟩
  | lock =>
    simp only [State.hostStep]
    split <;> exact ⟨rfl, rfl, fun _ => rfl⟩
  | unlock => exact ⟨rfl, rfl, fun _ => rfl⟩
  | stopNic =>
    simp only [State.hostStep]
    rcases stopNic_cases s with e | ⟨_, _, e⟩ <;> rw [e] <;> exact ⟨rfl, rfl, fun _ => rfl⟩
  | resetNic d =>
    simp only [State.hostStep]
    rcases resetNic_cases s d with e | ⟨_, _, _, e⟩ <;> rw [e] <;> exact ⟨rfl, rfl, fun _ => rfl⟩

/-- Of all inputs only the reset ends a running command (70_reset_and_hazards.md R257). -/
theorem outside_course (s : State) {i : Input} (hi : i ≠ .reset) : s.SameCourse (s.outside i) := by
  cases i with
  | engine => exact ⟨rfl, rfl, fun _ => rfl⟩
  | await => exact ⟨rfl, rfl, fun _ => rfl⟩
  | nic n => exact nicStep_course s n
  | host h => exact hostStep_course s h
  | reset => exact absurd rfl hi

theorem outside_cfg (s : State) (i : Input) : (s.outside i).cfg = s.cfg := by
  by_cases hi : i = .reset
  · subst hi; exact s.blockReset_cfg
  · exact (outside_course s hi).cfg

theorem outside_inputs (s : State) (i : Input) : (s.outside i).inputs = s.inputs := by
  by_cases hi : i = .reset
  · subst hi; exact s.blockReset_inputs
  · exact (outside_course s hi).inputs

theorem turn_cfg (s : State) : s.turn.cfg = s.cfg :=
  turn_keeps (P := fun u => u.cfg = s.cfg) (fun l p u _ hu => (engineStep_outer l u p).cfg.trans hu)
    (fun i u hu => (outside_cfg u i).trans hu) (fun is u hu => (u.setInputs_cfg is).trans hu) s rfl

theorem step_cfg {s t : State} (h : step s = .next t) : t.cfg = s.cfg :=
  step_keeps (P := fun u => u.cfg = s.cfg) (fun w u _ hu => (u.startCmd_cfg w).trans hu) (fun u hu => u.overrun_cfg.trans hu)
    (fun l p u _ hu => (engineStep_outer l u p).cfg.trans hu) (fun i u hu => (outside_cfg u i).trans hu)
    (fun is u hu => (u.setInputs_cfg is).trans hu) s t rfl h

/-- `CAPS`, `MAC_LO` and `MAC_HI` are read from the parameters alone (10_state.md R28, R35). -/
theorem hostRead_of_cfg {s t : State} (h : t.cfg = s.cfg) {off : Nat} (ho : off = 0x50 ∨ off = 0x54 ∨ off = 0x58) :
    t.hostRead off = s.hostRead off := by
  rcases ho with rfl | rfl | rfl <;> simp [State.hostRead, h]

/-- Settles O15: every move keeps the configuration, and the three registers are functions of it. -/
theorem parametersConstant : Obligations.ParametersConstant :=
  fun _ _ h => ⟨step_cfg h, fun _ ho => hostRead_of_cfg (step_cfg h) ho⟩

end Sys2Proof.Machine
end

/-! ## Every command ends (00_scope.md R17; 70_reset_and_hazards.md R273)

Each position of a command gets a number that every engine step lowers, but for `Acquire()` while other software holds the lock. The
numbers are upper bounds: a loop counts what its limit leaves, and of two ways on the longer one counts. At the decode the number is
`stepBound`, and every input that is taken is one fewer: so a run of that many moves ends settled. -/

section

namespace Sys2Proof.Machine

/-! ### The engine steps left at a position -/

/-- A start or stop of a queue with its handshake: `P_QUEUE_POLL_COUNT` reads and delays, and five steps around them (45_lifecycle.md
R211, R213, R215). -/
def handshakeSteps (c : Config) : Nat := 2 * c.queuePollCount + 5

/-- A buffer takes two steps; the third that is counted for it pays for one more mapping that a failure may have to undo (40_ring.md
R134 to R137). -/
def initStepsLeft (l : Latch) : InitPoint → Nat
  | .txSlot i => (l.imm - i) + 3 * l.imm + 15
  | .mapBuf i => 3 * (l.imm - i) + i + 14
  | .rxSlot i => 3 * (l.imm - i) + i + 13
  | .undo j => j + 1
  | .program k => (11 - k) + 1

/-- A fragment is read, mapped and written; then the tail, the release and `P_TX_POLL_COUNT` reads with their delays (41_transmit.md
R145, R151, R152). -/
def txStepsLeft (c : Config) (l : Latch) : TxPoint → Nat
  | .sendMap => 2 * c.txPollCount + 8
  | .sendAcquire _ => 2 * c.txPollCount + 7
  | .sendWrite _ => 2 * c.txPollCount + 6
  | .fragRead acc => 3 * (l.imm - acc.length) + 2 * acc.length + 2 * c.txPollCount + 9
  | .fragMap _ todo done => 2 * todo.length + done.length + 2 * c.txPollCount + 8
  | .fragAcquire _ rest => rest.length + 2 * c.txPollCount + 7
  | .fragWrite _ rest => rest.length + 2 * c.txPollCount + 6
  | .tail _ => 2 * c.txPollCount + 5
  | .unlock _ => 2 * c.txPollCount + 4
  | .waitRead _ k => 2 * (c.txPollCount - k) + 2
  | .waitDelay _ k => 2 * (c.txPollCount - (k + 1)) + 3

/-- A slot takes four steps (41_transmit.md R157, R160). -/
def reclaimStepsLeft (l : Latch) : ReclaimPoint → Nat
  | .head => 4 * l.imm + 5
  | .read _ k => 4 * (l.imm - k) + 4
  | .unmap _ k _ => 4 * (l.imm - k) + 3
  | .output _ k _ => 4 * (l.imm - k) + 2
  | .clear _ k _ => 4 * (l.imm - k) + 1

/-- RX.POLL has no loop (42_receive.md R167). -/
def rxStepsLeft : RxPoint → Nat
  | .read => 5
  | .copy _ _ => 4
  | .header _ _ => 3
  | .rearm _ => 2
  | .tail _ => 1

/-- DownshiftRetry from its first round on (43_link.md R191). -/
def retrySteps (c : Config) : Nat := 2 * c.downshiftPollCount + 3

/-- The PHY probe from its first read on, with DownshiftRetry after it (43_link.md R190). -/
def probeSteps (c : Config) : Nat := 2 * c.phyProbeCount + retrySteps c + 1

/-- The windows of LINK.WAIT, each read with its delay (43_link.md R188 to R191). -/
def linkStepsLeft (c : Config) : LinkPoint → Nat
  | .read k => 2 * (c.linkPollCount - k) + probeSteps c + 2
  | .delay k => 2 * (c.linkPollCount - (k + 1)) + probeSteps c + 3
  | .phyRead k => 2 * (c.phyProbeCount - k) + retrySteps c + 1
  | .phyDelay k => 2 * (c.phyProbeCount - (k + 1)) + retrySteps c + 2
  | .retryDelay k => 2 * (c.downshiftPollCount - k) + 3
  | .retryRead k => 2 * (c.downshiftPollCount - k) + 2
  | .settle => 1

/-- From the release of a locked change on: after the list's change FILTER.SET makes one handshake (44_filter.md R205, R206); after that
of the receive-control word it reads the list and may make three (R203, R204). -/
def releaseSteps (c : Config) (l : Latch) : Change → Nat
  | .mcast => handshakeSteps c + 1
  | .ctrl => mcastCount c l + 3 * handshakeSteps c + 6

/-- From a locked change's own action on: at most two steps, the restart and the release (44_filter.md R201). -/
def changeSteps (c : Config) (l : Latch) (x : Change) : Nat := releaseSteps c l x + handshakeSteps c + 2

/-- FILTER.SET outside the start and stop procedures (44_filter.md R198, R201). -/
def filterStepsLeft (c : Config) (l : Latch) : FilterPoint → Nat
  | .acquire x _ => changeSteps c l x + handshakeSteps c + 1
  | .ctrlRead _ _ => changeSteps c l .ctrl
  | .ctrlWrite _ _ _ => releaseSteps c l .ctrl + handshakeSteps c + 1
  | .program _ _ => changeSteps c l .mcast
  | .release x _ => releaseSteps c l x
  | .listRead acc _ => (mcastCount c l - acc.length) + 3 * handshakeSteps c + 5

/-- The two writes of INT.MASK (45_lifecycle.md R222). -/
def maskStepsLeft : MaskPoint → Nat
  | .clear => 2
  | .set => 1

/-- What the caller of a start or stop procedure has left after its return. -/
def returnSteps (c : Config) (l : Latch) : Return → Nat
  | .command => 0
  | .paused x _ => changeSteps c l x
  | .resumed x _ => releaseSteps c l x
  | .final _ => 0

/-- A start or stop procedure, then what its caller has left. -/
def queueStepsLeft (c : Config) (l : Latch) : QueuePoint → Nat
  | .onRead _ r => returnSteps c l r + 2 * c.queuePollCount + 5
  | .onWrite _ _ r => returnSteps c l r + 2 * c.queuePollCount + 4
  | .onPoll _ k r => returnSteps c l r + 2 * (c.queuePollCount - k) + 3
  | .onDelay _ k r => returnSteps c l r + 2 * (c.queuePollCount - (k + 1)) + 4
  | .enableRead _ r => returnSteps c l r + 2
  | .enableWrite _ _ r => returnSteps c l r + 1
  | .disableRead _ r => returnSteps c l r + 2 * c.queuePollCount + 5
  | .disableWrite _ _ r => returnSteps c l r + 2 * c.queuePollCount + 4
  | .offRead _ r => returnSteps c l r + 2 * c.queuePollCount + 3
  | .offWrite _ _ r => returnSteps c l r + 2 * c.queuePollCount + 2
  | .offPoll _ k r => returnSteps c l r + 2 * (c.queuePollCount - k) + 1
  | .offDelay _ k r => returnSteps c l r + 2 * (c.queuePollCount - (k + 1)) + 2

/-- An upper bound of the engine steps left at a position, the waits for the lock not counted. -/
def pointStepsLeft (c : Config) (l : Latch) : Point → Nat
  | .decode => stepBound c
  | .init p => initStepsLeft l p
  | .tx p => txStepsLeft c l p
  | .reclaim p => reclaimStepsLeft l p
  | .rx p => rxStepsLeft p
  | .link p => linkStepsLeft c p
  | .filter p => filterStepsLeft c l p
  | .mask p => maskStepsLeft p
  | .queue p => queueStepsLeft c l p

/-- An upper bound of the engine steps the running command has left; 0 when none runs. -/
def State.stepsLeft (s : State) : Nat :=
  match s.eng.seq with
  | .idle => 0
  | .running l p => pointStepsLeft s.cfg l p

theorem stepsLeft_idle {s : State} (h : s.eng.seq = .idle) : s.stepsLeft = 0 := by simp [State.stepsLeft, h]

theorem stepsLeft_running {s : State} {l : Latch} {p : Point} (h : s.eng.seq = .running l p) :
    s.stepsLeft = pointStepsLeft s.cfg l p := by simp [State.stepsLeft, h]

section
variable (l : Latch) (s : State)

@[simp] theorem stepsLeft_goto (p : Point) : (s.goto l p).stepsLeft = pointStepsLeft s.cfg l p := rfl
@[simp] theorem stepsLeft_finish (c : Status) : (s.finish c).stepsLeft = 0 := rfl
@[simp] theorem stepsLeft_refuse : s.refuse.stepsLeft = 0 := rfl
@[simp] theorem stepsLeft_raiseFault (c : FaultCause) : (s.raiseFault c).stepsLeft = 0 := rfl
@[simp] theorem stepsLeft_setInputs (is : List Input) : (s.setInputs is).stepsLeft = s.stepsLeft := rfl

/-! ### The engine's steps lower the number -/

theorem initDone_stepsLeft : (initDone l s).stepsLeft = 0 := rfl

theorem initStep_stepsLeft (p : InitPoint) : (initStep l p s).stepsLeft < initStepsLeft l p := by
  cases p with
  | txSlot i =>
    simp only [initStep, initTxSlot, stepsLeft_goto]
    split <;> simp only [pointStepsLeft, initStepsLeft] <;> omega
  | mapBuf i =>
    rcases initMapBuf_cases l s i with ⟨_, _, e⟩ | ⟨_, h, e⟩ | ⟨d, _, e⟩ <;>
      simp only [initStep, e, stepsLeft_goto, stepsLeft_finish, pointStepsLeft, initStepsLeft] <;> omega
  | rxSlot i =>
    simp only [initStep, initRxSlot, stepsLeft_goto]
    split <;> simp only [pointStepsLeft, initStepsLeft] <;> omega
  | undo j =>
    simp only [initStep, initUndo]
    split <;> simp only [stepsLeft_goto, stepsLeft_finish, pointStepsLeft, initStepsLeft] <;> omega
  | program k =>
    rcases initProgram_cases l s k with ⟨_, e⟩ | ⟨_, _, _, _, _, ⟨h, e⟩ | ⟨_, e⟩⟩ <;>
      simp only [initStep, e, stepsLeft_goto, initDone_stepsLeft, pointStepsLeft, initStepsLeft] <;> omega

theorem acquireOrWait_stepsLeft (p : Point) (h : s.lockOther = false) :
    (acquireOrWait l p s).stepsLeft = pointStepsLeft s.cfg l p := by simp [acquireOrWait, h]

/-- After a list of legal entries is read, all but its first fragment stand in the list still to be mapped. -/
theorem fragsRead_stepsLeft (es : List (Option Frag)) :
    (fragsRead l es s).stepsLeft ≤ 2 * (es.length - 1) + 2 * s.cfg.txPollCount + 8 := by
  rcases fragsRead_cases l s es with ⟨_, e⟩ | ⟨f, todo, rfl, _, e⟩ | ⟨_, _, _, _, e⟩ <;>
    simp [e, pointStepsLeft, txStepsLeft]

/-- Two steps are counted for a fragment to map, one for a mapped one, which is still to be written. -/
theorem afterFragMap_stepsLeft (c : Config) (f : Frag) (todo : List Frag) (done : List MappedFrag) (m : MappedFrag) :
    txStepsLeft c l (afterFragMap todo done m) < txStepsLeft c l (.fragMap f todo done) := by
  rcases afterFragMap_cases todo done m with ⟨_, rest, rfl, e⟩ | ⟨_, rest, rfl, h, e⟩
  · simp only [e, txStepsLeft, List.length_append, List.length_cons, List.length_nil]
    omega
  · have hl : done.length = rest.length := by simpa using congrArg List.length h
    simp only [e, txStepsLeft, hl]
    omega

theorem txStep_stepsLeft (p : TxPoint) (h : ((Point.tx p).isAcquire && s.lockOther) = false) :
    (txStep l p s).stepsLeft < txStepsLeft s.cfg l p := by
  cases p with
  | sendMap => simp [txStep, sendMap, pointStepsLeft, txStepsLeft]
  | sendAcquire da =>
    simp [txStep, acquireOrWait_stepsLeft l s _ (by simpa [Point.isAcquire] using h), pointStepsLeft, txStepsLeft]
  | sendWrite da => simp [txStep, sendWrite, (pushDesc_outer s _ _ _ _ _).cfg, pointStepsLeft, txStepsLeft]
  | fragRead acc =>
    rcases fragRead_cases l s acc _ _ rfl rfl with ⟨_, e⟩ | ⟨_, e⟩
    · simp only [txStep, e, stepsLeft_goto, State.memRead_cfg, pointStepsLeft, txStepsLeft, List.length_append,
        List.length_singleton]
      omega
    · have hb := fragsRead_stepsLeft l (s.memRead (entryAddr l.arg0 16 acc.length) 16)
        (acc ++ [fragOf (readDesc s.mem (entryAddr l.arg0 16 acc.length))])
      simp only [State.memRead_cfg, List.length_append, List.length_singleton] at hb
      simp only [txStep, e, txStepsLeft]
      omega
  | fragMap f todo done => exact afterFragMap_stepsLeft l s.cfg f todo done _
  | fragAcquire f rest =>
    simp [txStep, acquireOrWait_stepsLeft l s _ (by simpa [Point.isAcquire] using h), pointStepsLeft, txStepsLeft]
  | fragWrite f rest =>
    simp only [txStep, fragWrite, stepsLeft_goto, (pushDesc_outer s _ _ _ _ _).cfg]
    cases rest <;> simp [pointStepsLeft, txStepsLeft]
  | tail slot => simp [txStep, txTail, pointStepsLeft, txStepsLeft]
  | unlock slot =>
    rcases txUnlock_cases l s slot with ⟨_, e⟩ | ⟨_, _, e⟩ | ⟨_, _, e⟩ <;>
      simp [txStep, e, pointStepsLeft, txStepsLeft]
  | waitRead slot k =>
    rcases waitRead_cases l s slot k _ rfl with ⟨_, e⟩ | ⟨_, _, e⟩ | ⟨_, _, e⟩ <;>
      simp only [txStep, e, stepsLeft_goto, stepsLeft_finish, State.memRead_cfg, pointStepsLeft, txStepsLeft] <;> omega
  | waitDelay slot k => simp [txStep, waitDelay, pointStepsLeft, txStepsLeft]

theorem reclaimNext_stepsLeft (h : Word) (k : Nat) : (reclaimNext l h k s).stepsLeft ≤ 4 * (l.imm - k) + 4 := by
  rcases reclaimNext_cases l s h k with ⟨_, e⟩ | ⟨_, _, _, e⟩ <;> simp [e, pointStepsLeft, reclaimStepsLeft]

/-- A further slot is read only below `maxEntries`: what makes TX.RECLAIM end. -/
theorem reclaimNext_succ_stepsLeft (h : Word) (k : Nat) : (reclaimNext l h (k + 1) s).stepsLeft ≤ 4 * (l.imm - k) := by
  rcases reclaimNext_cases l s h (k + 1) with ⟨_, e⟩ | ⟨hk, _, _, e⟩ <;>
    simp only [e, stepsLeft_goto, stepsLeft_finish, pointStepsLeft, reclaimStepsLeft] <;> omega

theorem reclaimStep_stepsLeft (p : ReclaimPoint) : (reclaimStep l p s).stepsLeft < reclaimStepsLeft l p := by
  cases p with
  | head =>
    rcases reclaimHead_cases l s with ⟨_, e⟩ | ⟨_, _, e⟩ | ⟨_, _, e⟩
    · simp [reclaimStep, e, reclaimStepsLeft]
    · simp only [reclaimStep, e, reclaimStepsLeft]
      exact Nat.lt_succ_of_le (reclaimNext_stepsLeft l _ _ 0)
    · simp [reclaimStep, e, reclaimStepsLeft]
  | read h k =>
    simp only [reclaimStep, reclaimRead]
    split <;> simp [pointStepsLeft, reclaimStepsLeft]
  | unmap h k d => simp [reclaimStep, reclaimUnmap, pointStepsLeft, reclaimStepsLeft]
  | output h k d => simp [reclaimStep, reclaimOutput, pointStepsLeft, reclaimStepsLeft]
  | clear h k d => exact Nat.lt_succ_of_le (reclaimNext_succ_stepsLeft l _ h k)

theorem rxStep_stepsLeft (p : RxPoint) : (rxStep l p s).stepsLeft < rxStepsLeft p := by
  cases p with
  | read =>
    rcases pollRead_cases l s _ _ rfl rfl with ⟨_, e⟩ | ⟨_, _, e⟩ | ⟨_, _, _, _, e⟩ | ⟨_, _, _, _, e⟩ <;>
      simp [rxStep, e, pointStepsLeft, rxStepsLeft]
  | copy len n => simp [rxStep, pollCopy, pointStepsLeft, rxStepsLeft]
  | header len n => simp [rxStep, pollHeader, pointStepsLeft, rxStepsLeft]
  | rearm r => simp [rxStep, pollRearm, pointStepsLeft, rxStepsLeft]
  | tail r => cases r <;> simp [rxStep, pollTail, rxStepsLeft]

theorem linkUpSeen_stepsLeft : (linkUpSeen l s).stepsLeft ≤ 1 := by
  rcases linkUpSeen_cases l s with ⟨_, e⟩ | ⟨_, e⟩ <;> simp [e, linkUpDone, pointStepsLeft, linkStepsLeft]

theorem linkFailed_stepsLeft : (linkFailed s).stepsLeft = 0 := rfl

theorem startRetry_stepsLeft : (startRetry l s).stepsLeft ≤ retrySteps s.cfg := by
  rcases startRetry_cases l s with ⟨_, e⟩ | ⟨_, e⟩ <;>
    simp [e, linkFailed_stepsLeft, pointStepsLeft, linkStepsLeft, retrySteps]

theorem windowOver_stepsLeft : (windowOver l s).stepsLeft ≤ probeSteps s.cfg := by
  rcases windowOver_cases l s with ⟨_, _, e⟩ | ⟨_, e⟩ <;>
    simp [e, linkFailed_stepsLeft, pointStepsLeft, linkStepsLeft, probeSteps]

theorem linkStep_stepsLeft (p : LinkPoint) : (linkStep l p s).stepsLeft < linkStepsLeft s.cfg p := by
  have hu := linkUpSeen_stepsLeft l (s.regRead .status)
  cases p with
  | read k =>
    have hw : _ ≤ probeSteps s.cfg := windowOver_stepsLeft l (s.regRead .status)
    simp only [linkStep, linkRead]
    split_ifs <;> simp only [stepsLeft_goto, State.regRead_cfg, pointStepsLeft, linkStepsLeft] <;> omega
  | delay k => simp [linkStep, linkDelay, pointStepsLeft, linkStepsLeft]
  | phyRead k =>
    have hr : _ ≤ retrySteps s.cfg := startRetry_stepsLeft l s.phyRead
    simp only [linkStep, linkPhyRead]
    split_ifs <;>
      simp only [stepsLeft_goto, linkFailed_stepsLeft, State.phyRead_cfg, pointStepsLeft, linkStepsLeft] <;> omega
  | phyDelay k => simp [linkStep, linkPhyDelay, pointStepsLeft, linkStepsLeft]
  | retryDelay k => simp [linkStep, linkRetryDelay, pointStepsLeft, linkStepsLeft]
  | retryRead k =>
    simp only [linkStep, linkRetryRead]
    split_ifs <;>
      simp only [stepsLeft_goto, linkFailed_stepsLeft, State.regRead_cfg, pointStepsLeft, linkStepsLeft] <;> omega
  | settle => exact Nat.one_pos

theorem maskStep_stepsLeft (p : MaskPoint) : (maskStep l p s).stepsLeft < maskStepsLeft p := by
  cases p <;> simp [maskStep, pointStepsLeft, maskStepsLeft]

theorem startQueue_stepsLeft (q : Queue) (r : Return) :
    (startQueue l q r s).stepsLeft ≤ returnSteps s.cfg l r + handshakeSteps s.cfg := by
  rcases startQueue_cases l s q r with ⟨_, e⟩ | ⟨_, e⟩ <;>
    simp only [e, stepsLeft_goto, pointStepsLeft, queueStepsLeft, handshakeSteps] <;> omega

theorem stopQueue_stepsLeft (q : Queue) (r : Return) :
    (stopQueue l q r s).stepsLeft = returnSteps s.cfg l r + handshakeSteps s.cfg := rfl

theorem filterEnd_stepsLeft (late : Bool) : (filterEnd l late s).stepsLeft ≤ handshakeSteps s.cfg := by
  rcases filterEnd_cases l s late _ rfl with ⟨_, _, e⟩ | ⟨_, _, e⟩ | ⟨_, e⟩ <;> rw [e]
  · exact (startQueue_stepsLeft l _ .rx (.final late)).trans (by simp [returnSteps])
  · simp [stopQueue_stepsLeft, returnSteps]
  · simp

theorem filterListed_stepsLeft (list : Option (List Mac)) (late : Bool) :
    (filterListed l list late s).stepsLeft ≤ 3 * handshakeSteps s.cfg + 4 := by
  rcases filterListed_cases l s list late with ⟨_, _, _, e⟩ | ⟨_, _, e⟩ | ⟨_, _, e⟩ <;> rw [e]
  · simp only [stepsLeft_goto, State.setMcastTable_cfg, pointStepsLeft, filterStepsLeft, changeSteps, releaseSteps]
    omega
  · simp only [stepsLeft_goto, pointStepsLeft, filterStepsLeft, changeSteps, releaseSteps]
    omega
  · have he := filterEnd_stepsLeft l s late
    omega

theorem filterList_stepsLeft (late : Bool) :
    (filterList l late s).stepsLeft ≤ mcastCount s.cfg l + 3 * handshakeSteps s.cfg + 5 := by
  have hl (list : Option (List Mac)) := filterListed_stepsLeft l s list late
  unfold filterList
  split_ifs
  · simp [pointStepsLeft, filterStepsLeft]
  · have := hl (some []); omega
  · have := hl none; omega

theorem changeMade_stepsLeft (x : Change) (was late : Bool) :
    (changeMade l x was late s).stepsLeft ≤ releaseSteps s.cfg l x + handshakeSteps s.cfg := by
  unfold changeMade
  split
  · exact startQueue_stepsLeft l s .rx (.resumed x late)
  · simp [pointStepsLeft, filterStepsLeft]

theorem changePoint_stepsLeft (c : Config) (x : Change) (was late : Bool) :
    pointStepsLeft c l (.filter (changePoint x was late)) = changeSteps c l x := by cases x <;> rfl

theorem filterStep_stepsLeft (p : FilterPoint) (h : ((Point.filter p).isAcquire && s.lockOther) = false) :
    (filterStep l p s).stepsLeft < filterStepsLeft s.cfg l p := by
  cases p with
  | acquire x late =>
    rcases filterAcquire_cases l s x late with ⟨hl, _⟩ | ⟨_, _, e⟩ | ⟨_, _, e⟩
    · simp [Point.isAcquire, hl] at h
    · simp [filterStep, e, stopQueue_stepsLeft, returnSteps, filterStepsLeft]
    · simp only [filterStep, e, stepsLeft_goto, State.acquire_cfg, changePoint_stepsLeft, filterStepsLeft]
      omega
  | ctrlRead was late => simp [filterStep, filterCtrlRead, pointStepsLeft, filterStepsLeft, changeSteps]
  | ctrlWrite v was late => exact Nat.lt_succ_of_le (changeMade_stepsLeft l _ .ctrl was late)
  | program was late => exact Nat.lt_succ_of_lt (Nat.lt_succ_of_le (changeMade_stepsLeft l _ .mcast was late))
  | release x late =>
    cases x with
    | ctrl => exact Nat.lt_succ_of_le (filterList_stepsLeft l s.release late)
    | mcast => exact Nat.lt_succ_of_le (filterEnd_stepsLeft l s.release late)
  | listRead acc late =>
    simp only [filterStep, filterListRead]
    split
    · simp only [stepsLeft_goto, State.memRead_cfg, pointStepsLeft, filterStepsLeft, List.length_append,
        List.length_singleton]
      omega
    · refine (filterListed_stepsLeft l _ _ late).trans_lt ?_
      simp only [State.memRead_cfg, filterStepsLeft]
      omega

theorem returnTo_stepsLeft (r : Return) (timedOut : Bool) : (returnTo l r timedOut s).stepsLeft = returnSteps s.cfg l r := by
  rcases returnTo_cases l s r timedOut with ⟨rfl, e⟩ | ⟨x, late, rfl, e⟩ | ⟨x, late, rfl, e⟩ | ⟨_, rfl, e⟩ <;> rw [e]
  · rfl
  · exact changePoint_stepsLeft l s.cfg x true _
  · rfl
  · rfl

theorem queueStep_stepsLeft (p : QueuePoint) : (queueStep l p s).stepsLeft < queueStepsLeft s.cfg l p := by
  cases p with
  | onRead q r => simp [queueStep, onRead, pointStepsLeft, queueStepsLeft]
  | onWrite q v r =>
    simp only [queueStep, onWrite]
    split_ifs <;>
      simp only [stepsLeft_goto, returnTo_stepsLeft, State.regWrite_cfg, pointStepsLeft, queueStepsLeft] <;> omega
  | onPoll q k r =>
    simp only [queueStep, onPoll]
    split_ifs <;>
      simp only [stepsLeft_goto, returnTo_stepsLeft, State.regRead_cfg, pointStepsLeft, queueStepsLeft] <;> omega
  | onDelay q k r => simp [queueStep, onDelay, pointStepsLeft, queueStepsLeft]
  | enableRead q r => simp [queueStep, enableRead, pointStepsLeft, queueStepsLeft]
  | enableWrite q v r => simp [queueStep, enableWrite, returnTo_stepsLeft, queueStepsLeft]
  | disableRead q r => simp [queueStep, disableRead, pointStepsLeft, queueStepsLeft]
  | disableWrite q v r =>
    simp only [queueStep, disableWrite]
    split_ifs <;>
      simp only [stepsLeft_goto, returnTo_stepsLeft, State.setStarted_cfg, State.regWrite_cfg, pointStepsLeft, queueStepsLeft] <;> omega
  | offRead q r => simp [queueStep, offRead, pointStepsLeft, queueStepsLeft]
  | offWrite q v r =>
    simp only [queueStep, offWrite]
    split_ifs <;>
      simp only [stepsLeft_goto, returnTo_stepsLeft, State.regWrite_cfg, pointStepsLeft, queueStepsLeft] <;> omega
  | offPoll q k r =>
    simp only [queueStep, offPoll]
    split_ifs <;>
      simp only [stepsLeft_goto, returnTo_stepsLeft, State.regRead_cfg, pointStepsLeft, queueStepsLeft] <;> omega
  | offDelay q k r => simp [queueStep, offDelay, pointStepsLeft, queueStepsLeft]

/-! ### The decode: no command needs more than `stepBound` -/

theorem imm_le : l.imm ≤ 65535 := Nat.le_of_lt_succ (immField l.word).isLt

/-- `P_MAX_MCAST` of a well-formed configuration has 8 bits (10_state.md R35). -/
theorem mcastCount_le {c : Config} (hc : configWf c = true) : mcastCount c l ≤ 255 := by
  simp only [configWf, Bool.and_eq_true, decide_eq_true_eq] at hc
  obtain ⟨⟨_, hm⟩, _⟩ := hc
  exact (Nat.min_le_right _ _).trans hm

theorem linkStart_stepsLeft : (linkStart l s).stepsLeft ≤ 2 * s.cfg.linkPollCount + probeSteps s.cfg + 2 := by
  have hw : _ ≤ probeSteps s.cfg := windowOver_stepsLeft l (s.setLink .negotiating)
  unfold linkStart
  split_ifs <;> simp only [stepsLeft_goto, stepsLeft_finish, State.setLink_cfg, pointStepsLeft, linkStepsLeft] <;> omega

/-- FILTER.SET has the most handshakes: five. -/
theorem filterStart_stepsLeft :
    (filterStart l s).stepsLeft ≤ mcastCount s.cfg l + 5 * handshakeSteps s.cfg + 9 := by
  have hl := filterList_stepsLeft l s false
  unfold filterStart
  split_ifs
  · exact Nat.zero_le _
  · simp only [stepsLeft_goto, pointStepsLeft, filterStepsLeft, changeSteps, releaseSteps]
    omega
  · omega

theorem startInstr_stepsLeft (hc : configWf s.cfg = true) (i : Instr) :
    (startInstr l i s).stepsLeft < stepBound s.cfg := by
  have hi := imm_le l
  unfold stepBound
  cases i with
  | init n =>
    rcases initStart_cases l s with ⟨_, e⟩ | ⟨_, e⟩ <;>
      simp only [startInstr, e, stepsLeft_refuse, stepsLeft_goto, pointStepsLeft, initStepsLeft] <;> omega
  | txSend block vle =>
    rcases sendStart_cases l s with ⟨_, e⟩ | ⟨_, _, e⟩ | ⟨_, _, e⟩ <;>
      simp only [startInstr, e, stepsLeft_refuse, stepsLeft_finish, stepsLeft_goto, pointStepsLeft, txStepsLeft] <;> omega
  | txSendf block vle frags =>
    rcases sendfStart_cases l s with ⟨_, e⟩ | ⟨_, e⟩ <;>
      simp only [startInstr, e, stepsLeft_refuse, stepsLeft_goto, pointStepsLeft, txStepsLeft, List.length_nil] <;> omega
  | txReclaim max =>
    simp only [startInstr, reclaimStart]
    split_ifs <;>
      simp only [stepsLeft_refuse, stepsLeft_finish, stepsLeft_goto, pointStepsLeft, reclaimStepsLeft] <;> omega
  | rxPoll =>
    simp only [startInstr, pollStart]
    split_ifs <;> simp only [stepsLeft_refuse, stepsLeft_goto, pointStepsLeft, rxStepsLeft] <;> omega
  | linkWait cd =>
    have h := linkStart_stepsLeft l s
    simp only [probeSteps, retrySteps] at h
    simp only [startInstr]
    omega
  | filterSet mcl mask =>
    have h := filterStart_stepsLeft l s
    have hm := mcastCount_le l hc
    simp only [handshakeSteps] at h
    simp only [startInstr]
    omega
  | intMask =>
    simp only [startInstr, maskStart, stepsLeft_goto, pointStepsLeft, maskStepsLeft]
    omega
  | rxEnable =>
    have h := startQueue_stepsLeft l s .rx .command
    simp only [returnSteps, handshakeSteps] at h
    simp only [startInstr]
    omega
  | rxDisable =>
    simp only [startInstr, stopQueue_stepsLeft, returnSteps, handshakeSteps]
    omega
  | txqEnable =>
    have h := startQueue_stepsLeft l s .tx .command
    simp only [returnSteps, handshakeSteps] at h
    simp only [startInstr]
    omega
  | txqDisable =>
    simp only [startInstr, stopQueue_stepsLeft, returnSteps, handshakeSteps]
    omega

theorem stepBound_pos (c : Config) : 0 < stepBound c := by unfold stepBound; omega

theorem decodeStep_stepsLeft (hc : configWf s.cfg = true) : (decodeStep l s).stepsLeft < stepBound s.cfg := by
  rcases decodeStep_cases l s with ⟨_, e⟩ | ⟨_, _, e⟩ | ⟨_, i, _, ⟨_, _, e⟩ | ⟨_, e⟩⟩ <;> rw [e]
  · exact stepBound_pos s.cfg
  · exact stepBound_pos s.cfg
  · exact stepBound_pos s.cfg
  · exact startInstr_stepsLeft l s hc i

/-- Every engine step that does not wait for the lock lowers the number of steps left. -/
theorem engineStep_stepsLeft (hc : configWf s.cfg = true) (p : Point) (h : (p.isAcquire && s.lockOther) = false) :
    (engineStep l p s).stepsLeft < pointStepsLeft s.cfg l p := by
  cases p with
  | decode => exact decodeStep_stepsLeft l s hc
  | init q => exact initStep_stepsLeft l s q
  | tx q => exact txStep_stepsLeft l s q h
  | reclaim q => exact reclaimStep_stepsLeft l s q
  | rx q => exact rxStep_stepsLeft l s q
  | link q => exact linkStep_stepsLeft l s q
  | filter q => exact filterStep_stepsLeft l s q h
  | mask q => exact maskStep_stepsLeft l s q
  | queue q => exact queueStep_stepsLeft l s q

/-- A wait for the lock changes nothing (20_memory.md R89). -/
theorem engineStep_waits {p : Point} (hp : p.isAcquire = true) (hl : s.lockOther = true) : engineStep l p s = s := by
  unfold Point.isAcquire at hp
  split at hp
  · simp [engineStep, txStep, acquireOrWait, hl]
  · simp [engineStep, txStep, acquireOrWait, hl]
  · simp [engineStep, filterStep, filterAcquire, hl]
  · exact absurd hp Bool.false_ne_true

end

/-! ### A run of as many moves as there are steps and inputs ends settled -/

theorem engineTurn_blocked {s : State} (h : s.blocked = true) : s.engineTurn = s := by
  rcases hq : s.eng.seq with _ | ⟨l, p⟩
  · exact engineTurn_idle hq
  · simp only [State.blocked, hq, Bool.and_eq_true] at h
    obtain ⟨hp, hl⟩ := h
    simp only [State.engineTurn, hq, engineStep_waits l s hp hl]

theorem engineTurn_stepsLeft_lt {s : State} (hc : configWf s.cfg = true) (hq : s.eng.seq ≠ .idle) (hb : s.blocked = false) :
    s.engineTurn.stepsLeft < s.stepsLeft := by
  rcases hs : s.eng.seq with _ | ⟨l, p⟩
  · exact absurd hs hq
  · simp only [State.blocked, hs] at hb
    simpa only [State.engineTurn, hs, stepsLeft_running hs] using engineStep_stepsLeft l s hc p hb

theorem engineTurn_stepsLeft_le {s : State} (hc : configWf s.cfg = true) (hq : s.eng.seq ≠ .idle) :
    s.engineTurn.stepsLeft ≤ s.stepsLeft := by
  cases hb : s.blocked with
  | true => exact (congrArg State.stepsLeft (engineTurn_blocked hb)).le
  | false => exact (engineTurn_stepsLeft_lt hc hq hb).le

/-- No input gives a running command more steps. -/
theorem outside_stepsLeft_le {s : State} (hq : s.eng.seq ≠ .idle) (i : Input) : (s.outside i).stepsLeft ≤ s.stepsLeft := by
  by_cases hi : i = .reset
  · subst hi
    exact (stepsLeft_idle (s := s.blockReset) rfl).trans_le (Nat.zero_le _)
  · obtain ⟨hcfg, _, hseq⟩ := outside_course s hi
    simp only [State.stepsLeft, hcfg, hseq hq, le_refl]

/-- The moves a run can still make: the inputs to come and the engine steps left. -/
def State.movesLeft (s : State) : Nat := s.inputs.length + s.stepsLeft

theorem not_settled {s : State} (h : s.settled = false) : s.eng.seq ≠ .idle ∧ (s.inputs = [] → s.blocked = false) := by
  unfold State.settled at h
  split at h
  · cases h
  · next hq => exact ⟨by simp [hq], fun hi => by simpa [hi] using h⟩

theorem turn_movesLeft_lt {s : State} (hc : configWf s.cfg = true) (hs : s.settled = false) :
    s.turn.movesLeft < s.movesLeft := by
  obtain ⟨hq, hb⟩ := not_settled hs
  unfold State.movesLeft
  rcases turn_cases s with ⟨hi, e⟩ | ⟨is, hi, e⟩ | ⟨is, hi, _, e⟩ | ⟨is, hi, hw, e⟩ | ⟨i, is, hi, _, _, e⟩ <;> rw [e]
  · rw [(engineTurn_outer s).inputs]
    exact Nat.add_lt_add_left (engineTurn_stepsLeft_lt hc hq (hb hi)) _
  · have h := engineTurn_stepsLeft_le (s := s.setInputs is) hc hq
    simp only [(engineTurn_outer _).inputs, hi, State.setInputs_inputs, List.length_cons, stepsLeft_setInputs] at h ⊢
    omega
  · simp only [hi, State.setInputs_inputs, List.length_cons, stepsLeft_setInputs]
    omega
  · rw [(engineTurn_outer s).inputs]
    exact Nat.add_lt_add_left (engineTurn_stepsLeft_lt hc hq hw) _
  · have h := outside_stepsLeft_le (s := s.setInputs is) hq i
    simp only [outside_inputs, hi, State.setInputs_inputs, List.length_cons, stepsLeft_setInputs] at h ⊢
    omega

theorem run_settles : ∀ (n : Nat) (s : State), configWf s.cfg = true → s.movesLeft ≤ n → (State.run n s).settled = true
  | n, s, hc, hn => by
    cases hs : s.settled with
    | true => rw [run_settled hs]; exact hs
    | false =>
      have ht := turn_movesLeft_lt hc hs
      cases n with
      | zero => omega
      | succ n =>
        rw [run_succ hs]
        exact run_settles n s.turn (by rw [turn_cfg]; exact hc) (by omega)

/-- `drive` makes exactly the moves that a command just started has left. -/
theorem startCmd_drive_settled {s : State} (hc : configWf s.cfg = true) (w : Word) : (s.startCmd w).drive.settled = true :=
  run_settles _ _ hc (le_refl _)

/-- Settles O8: every move of an unsettled machine lowers the moves left, and `drive` makes as many moves as are left at the decode. -/
theorem everyCommandEndsOrWaitsForTheLock : Obligations.EveryCommandEndsOrWaitsForTheLock := by
  intro s i hc hq
  rw [exec_eq]
  rcases issueWord_cases (encode i) s with ⟨h, _⟩ | ⟨_, _, e⟩ | ⟨_, h, _⟩
  · simp [hc] at h
  · exact ⟨_, e, startCmd_drive_settled hc _⟩
  · exact absurd hq h

end Sys2Proof.Machine
end

/-! ## Memory and the tables stay canonical (20_memory.md R58; 10_state.md R40 to R42)

The canonical form speaks of memory, the two binding tables and the multicast table alone. So the operations fall into two kinds: those
that leave these four as they are, for which the form before and after is the same, and the few that write one of them, each of which
keeps the form. -/

section

namespace Sys2Proof.Machine

/-! ### Operations that leave memory and the tables as they are -/

theorem State.Canonical.of_same {s t : State} (h : s.Canonical) (hm : t.mem = s.mem) (ht : t.eng.txTab = s.eng.txTab)
    (hr : t.eng.rxTab = s.eng.rxTab) (hc : t.eng.mcTable = s.eng.mcTable) : t.Canonical :=
  ⟨hm ▸ h.mem, ht ▸ h.tx, hr ▸ h.rx, hc ▸ h.mc⟩

theorem canonical_congr {s t : State} (hm : t.mem = s.mem) (ht : t.eng.txTab = s.eng.txTab)
    (hr : t.eng.rxTab = s.eng.rxTab) (hc : t.eng.mcTable = s.eng.mcTable) : t.Canonical ↔ s.Canonical :=
  ⟨fun h => h.of_same hm.symm ht.symm hr.symm hc.symm, fun h => h.of_same hm ht hr hc⟩

theorem setEng_canonical {s : State} (h : s.Canonical) {e : Engine} (ht : e.txTab = s.eng.txTab)
    (hr : e.rxTab = s.eng.rxTab) (hc : e.mcTable = s.eng.mcTable) : (s.setEng e).Canonical :=
  h.of_same rfl ht hr hc

section
variable (l : Latch) (s : State)

@[simp] theorem canonical_note (a : PortAction) : (s.note a).Canonical ↔ s.Canonical := canonical_congr rfl rfl rfl rfl
@[simp] theorem canonical_setRegs (r : HostRegs) : (s.setRegs r).Canonical ↔ s.Canonical := canonical_congr rfl rfl rfl rfl
@[simp] theorem canonical_setNic (d : Nic) : (s.setNic d).Canonical ↔ s.Canonical := canonical_congr rfl rfl rfl rfl
@[simp] theorem canonical_setInputs (is : List Input) : (s.setInputs is).Canonical ↔ s.Canonical :=
  canonical_congr rfl rfl rfl rfl
@[simp] theorem canonical_goto (p : Point) : (s.goto l p).Canonical ↔ s.Canonical := canonical_congr rfl rfl rfl rfl
@[simp] theorem canonical_finish (c : Status) : (s.finish c).Canonical ↔ s.Canonical := canonical_congr rfl rfl rfl rfl
@[simp] theorem canonical_refuse : s.refuse.Canonical ↔ s.Canonical := canonical_congr rfl rfl rfl rfl
@[simp] theorem canonical_raiseFault (c : FaultCause) : (s.raiseFault c).Canonical ↔ s.Canonical :=
  canonical_congr rfl rfl rfl rfl
@[simp] theorem canonical_startCmd (w : Word) : (s.startCmd w).Canonical ↔ s.Canonical := canonical_congr rfl rfl rfl rfl
@[simp] theorem canonical_overrun : s.overrun.Canonical ↔ s.Canonical := canonical_congr rfl rfl rfl rfl
@[simp] theorem canonical_regRead (r : NicReg) : (s.regRead r).Canonical ↔ s.Canonical := canonical_note s _
@[simp] theorem canonical_regWrite (r : NicReg) (v : Word) : (s.regWrite r v).Canonical ↔ s.Canonical :=
  canonical_congr rfl rfl rfl rfl
@[simp] theorem canonical_memRead (a : Addr) (n : Nat) : (s.memRead a n).Canonical ↔ s.Canonical := canonical_note s _
@[simp] theorem canonical_mapCall (va : Addr) (n : Nat) : (s.mapCall va n).Canonical ↔ s.Canonical :=
  canonical_congr rfl rfl rfl rfl
@[simp] theorem canonical_addMapping (da va : Addr) (n : Nat) : (s.addMapping da va n).Canonical ↔ s.Canonical :=
  canonical_congr rfl rfl rfl rfl
@[simp] theorem canonical_mapTx (va : Addr) (n : Nat) : (s.mapTx va n).Canonical ↔ s.Canonical :=
  canonical_congr rfl rfl rfl rfl
@[simp] theorem canonical_unmap (da : Addr) (n : Nat) : (s.unmap da n).Canonical ↔ s.Canonical :=
  canonical_congr rfl rfl rfl rfl
@[simp] theorem canonical_delay (us : Nat) : (s.delay us).Canonical ↔ s.Canonical := canonical_note s _
@[simp] theorem canonical_acquire : s.acquire.Canonical ↔ s.Canonical := canonical_congr rfl rfl rfl rfl
@[simp] theorem canonical_release : s.release.Canonical ↔ s.Canonical := canonical_congr rfl rfl rfl rfl
@[simp] theorem canonical_phyRead : s.phyRead.Canonical ↔ s.Canonical := canonical_note s _
@[simp] theorem canonical_mcastProgram (ms : List Mac) : (s.mcastProgram ms).Canonical ↔ s.Canonical :=
  canonical_congr rfl rfl rfl rfl
@[simp] theorem canonical_setRes2 (v : Word) : (s.setRes2 v).Canonical ↔ s.Canonical := canonical_setRegs s _
@[simp] theorem canonical_setReport (r : RxReport) : (s.setReport r).Canonical ↔ s.Canonical := canonical_setRegs s _
@[simp] theorem canonical_setLink (x : LinkState) : (s.setLink x).Canonical ↔ s.Canonical := canonical_congr rfl rfl rfl rfl
@[simp] theorem canonical_clearIntMask : (clearIntMask s).Canonical ↔ s.Canonical := canonical_congr rfl rfl rfl rfl
@[simp] theorem canonical_initDone : (initDone l s).Canonical ↔ s.Canonical := canonical_congr rfl rfl rfl rfl

@[simp] theorem canonical_setStarted (q : Queue) (on : Bool) : (s.setStarted q on).Canonical ↔ s.Canonical := by
  cases q <;> exact canonical_congr rfl rfl rfl rfl

@[simp] theorem canonical_countTrunc (len : Half) (n : Nat) : (countTrunc s len n).Canonical ↔ s.Canonical := by
  unfold countTrunc
  split
  · exact canonical_congr rfl rfl rfl rfl
  · rfl

@[simp] theorem canonical_acquireOrWait (p : Point) : (acquireOrWait l p s).Canonical ↔ s.Canonical := by
  rcases acquireOrWait_cases l s p with ⟨_, e⟩ | ⟨_, e⟩ <;> simp [e]

@[simp] theorem canonical_fragsRead (es : List (Option Frag)) : (fragsRead l es s).Canonical ↔ s.Canonical := by
  rcases fragsRead_cases l s es with ⟨_, e⟩ | ⟨_, _, _, _, e⟩ | ⟨_, _, _, _, e⟩ <;> simp [e]

@[simp] theorem canonical_reclaimNext (h : Word) (k : Nat) : (reclaimNext l h k s).Canonical ↔ s.Canonical := by
  rcases reclaimNext_cases l s h k with ⟨_, e⟩ | ⟨_, _, _, e⟩ <;> simp [e]

@[simp] theorem canonical_linkFailed : (linkFailed s).Canonical ↔ s.Canonical := by simp [linkFailed]

@[simp] theorem canonical_linkUpDone : (linkUpDone s).Canonical ↔ s.Canonical := by simp [linkUpDone]

@[simp] theorem canonical_linkUpSeen : (linkUpSeen l s).Canonical ↔ s.Canonical := by
  rcases linkUpSeen_cases l s with ⟨_, e⟩ | ⟨_, e⟩ <;> simp [e]

@[simp] theorem canonical_startRetry : (startRetry l s).Canonical ↔ s.Canonical := by
  rcases startRetry_cases l s with ⟨_, e⟩ | ⟨_, e⟩ <;> simp [e]

@[simp] theorem canonical_windowOver : (windowOver l s).Canonical ↔ s.Canonical := by
  rcases windowOver_cases l s with ⟨_, _, e⟩ | ⟨_, e⟩ <;> simp [e]

@[simp] theorem canonical_startQueue (q : Queue) (r : Return) : (startQueue l q r s).Canonical ↔ s.Canonical := by
  rcases startQueue_cases l s q r with ⟨_, e⟩ | ⟨_, e⟩ <;> simp [e]

@[simp] theorem canonical_stopQueue (q : Queue) (r : Return) : (stopQueue l q r s).Canonical ↔ s.Canonical :=
  canonical_goto l s _

@[simp] theorem canonical_returnTo (r : Return) (timedOut : Bool) : (returnTo l r timedOut s).Canonical ↔ s.Canonical := by
  cases r <;> simp [returnTo]

@[simp] theorem canonical_changeMade (x : Change) (was late : Bool) : (changeMade l x was late s).Canonical ↔ s.Canonical := by
  unfold changeMade
  split <;> simp

@[simp] theorem canonical_filterEnd (late : Bool) : (filterEnd l late s).Canonical ↔ s.Canonical := by
  have hs : ∀ m, (s.setEng { s.eng with filterMask := m }).Canonical ↔ s.Canonical :=
    fun m => canonical_congr rfl rfl rfl rfl
  rcases filterEnd_cases l s late _ rfl with ⟨_, _, e⟩ | ⟨_, _, e⟩ | ⟨_, e⟩ <;> simp [e, hs]

/-! ### Operations that write memory or a table -/

variable {s}

theorem memWrite_canonical (h : s.Canonical) (a : Addr) (bs : List Byte) : (s.memWrite a bs).Canonical :=
  ⟨memWrite_memWf h.mem a bs, h.tx, h.rx, h.mc⟩

theorem copyBytes_canonical (h : s.Canonical) (dst src : Addr) (n : Nat) : (s.copyBytes dst src n).Canonical :=
  ⟨copyBytes_memWf h.mem dst src n, h.tx, h.rx, h.mc⟩

theorem setTxBinding_canonical (h : s.Canonical) (i : Nat) (b : TxBinding) : (s.setTxBinding i b).Canonical :=
  ⟨h.mem, tableSet_wf noTx h.tx i b, h.rx, h.mc⟩

theorem setRxBinding_canonical (h : s.Canonical) (i : Nat) (b : RxBinding) : (s.setRxBinding i b).Canonical :=
  ⟨h.mem, h.tx, tableSet_wf noRx h.rx i b, h.mc⟩

theorem setMcast_wf : ∀ (ms : List Mac) {t : List (Nat × Mac)}, tableWf (0 : Mac) t = true → ∀ k,
    tableWf (0 : Mac) (setMcast t k ms) = true
  | [], _, h, _ => h
  | m :: ms, _, h, k => setMcast_wf ms (tableSet_wf 0 h k m) (k + 1)

theorem setMcastTable_canonical (h : s.Canonical) (ms : List Mac) : (s.setMcastTable ms).Canonical :=
  ⟨h.mem, h.tx, h.rx, setMcast_wf ms h.mc 0⟩

/-- A descriptor write binds its slot and moves the write cursor, which is in no table (41_transmit.md R148, R149). -/
theorem pushDesc_canonical (h : s.Canonical) (va : Addr) (len : Half) (da : Addr) (cmd : Byte) (tag : Half) :
    (pushDesc s va len da cmd tag).Canonical :=
  setEng_canonical (setTxBinding_canonical (memWrite_canonical h _ _) _ _) rfl rfl rfl

theorem filterListed_canonical (h : s.Canonical) (list : Option (List Mac)) (late : Bool) :
    (filterListed l list late s).Canonical := by
  rcases filterListed_cases l s list late with ⟨new, _, _, e⟩ | ⟨_, _, e⟩ | ⟨_, _, e⟩ <;> rw [e]
  · exact (canonical_goto l _ _).mpr (setMcastTable_canonical h new)
  · exact (canonical_goto l s _).mpr h
  · exact (canonical_filterEnd l s late).mpr h

theorem filterList_canonical (h : s.Canonical) (late : Bool) : (filterList l late s).Canonical := by
  unfold filterList
  split_ifs
  · exact (canonical_goto l s _).mpr h
  · exact filterListed_canonical l h _ late
  · exact filterListed_canonical l h _ late

/-! ### The engine's steps -/

theorem initStep_canonical (h : s.Canonical) (p : InitPoint) : (initStep l p s).Canonical := by
  cases p with
  | txSlot i => exact (canonical_goto l _ _).mpr (setTxBinding_canonical (memWrite_canonical h _ _) _ _)
  | mapBuf i =>
    rcases initMapBuf_cases l s i with ⟨_, _, e⟩ | ⟨_, _, e⟩ | ⟨d, _, e⟩ <;> simp only [initStep, e]
    · simpa using h
    · simpa using h
    · exact (canonical_goto l _ _).mpr (setRxBinding_canonical (by simpa using h) _ _)
  | rxSlot i => exact (canonical_goto l _ _).mpr (memWrite_canonical h _ _)
  | undo j =>
    have hu := setRxBinding_canonical ((canonical_unmap s (s.rxBinding j).da l.arg1.toNat).mpr h) j noRx
    simp only [initStep, initUndo]
    split <;> simpa using hu
  | program k =>
    rcases initProgram_cases l s k with ⟨_, e⟩ | ⟨r, v, s', _, rfl, ⟨_, e⟩ | ⟨_, e⟩⟩ <;>
      simp only [initStep, e, canonical_goto, canonical_initDone]
    · exact h
    · split <;> simpa using h
    · split <;> simpa using h

theorem txStep_canonical (h : s.Canonical) (p : TxPoint) : (txStep l p s).Canonical := by
  cases p with
  | sendMap => simpa [txStep, sendMap] using h
  | sendAcquire da => simpa [txStep] using h
  | sendWrite da => exact (canonical_goto l _ _).mpr (pushDesc_canonical h _ _ _ _ _)
  | fragRead acc => rcases fragRead_cases l s acc _ _ rfl rfl with ⟨_, e⟩ | ⟨_, e⟩ <;> simpa [txStep, e] using h
  | fragMap f todo done => simpa [txStep, fragMap] using h
  | fragAcquire f rest => simpa [txStep] using h
  | fragWrite f rest => exact (canonical_goto l _ _).mpr (pushDesc_canonical h _ _ _ _ _)
  | tail slot => simpa [txStep, txTail] using h
  | unlock slot => rcases txUnlock_cases l s slot with ⟨_, e⟩ | ⟨_, _, e⟩ | ⟨_, _, e⟩ <;> simpa [txStep, e] using h
  | waitRead slot k =>
    rcases waitRead_cases l s slot k _ rfl with ⟨_, e⟩ | ⟨_, _, e⟩ | ⟨_, _, e⟩ <;> simpa [txStep, e] using h
  | waitDelay slot k => simpa [txStep, waitDelay] using h

theorem reclaimStep_canonical (h : s.Canonical) (p : ReclaimPoint) : (reclaimStep l p s).Canonical := by
  cases p with
  | head => rcases reclaimHead_cases l s with ⟨_, e⟩ | ⟨_, _, e⟩ | ⟨_, _, e⟩ <;> simpa [reclaimStep, e] using h
  | read g k =>
    simp only [reclaimStep, reclaimRead]
    split <;> simpa using h
  | unmap g k d => simpa [reclaimStep, reclaimUnmap] using h
  | output g k d => exact (canonical_goto l _ _).mpr (memWrite_canonical h _ _)
  | clear g k d =>
    simp only [reclaimStep, reclaimClear, canonical_reclaimNext, canonical_setRes2]
    exact setEng_canonical (setTxBinding_canonical (memWrite_canonical h _ _) _ _) rfl rfl rfl

theorem rxStep_canonical (h : s.Canonical) (p : RxPoint) : (rxStep l p s).Canonical := by
  cases p with
  | read =>
    rcases pollRead_cases l s _ _ rfl rfl with ⟨_, e⟩ | ⟨_, _, e⟩ | ⟨_, _, _, _, e⟩ | ⟨_, _, _, _, e⟩ <;>
      simpa [rxStep, e] using h
  | copy len n =>
    simp only [rxStep, pollCopy, canonical_goto, canonical_countTrunc]
    exact copyBytes_canonical h _ _ _
  | header len n => simpa [rxStep, pollHeader] using h
  | rearm r => exact (canonical_goto l _ _).mpr (memWrite_canonical h _ _)
  | tail r => cases r <;> exact h.of_same rfl rfl rfl rfl

theorem linkStep_canonical (h : s.Canonical) (p : LinkPoint) : (linkStep l p s).Canonical := by
  cases p with
  | read k =>
    simp only [linkStep, linkRead]
    split_ifs <;> simpa using h
  | delay k => simpa [linkStep, linkDelay] using h
  | phyRead k =>
    simp only [linkStep, linkPhyRead]
    split_ifs <;> simpa using h
  | phyDelay k => simpa [linkStep, linkPhyDelay] using h
  | retryDelay k => simpa [linkStep, linkRetryDelay] using h
  | retryRead k =>
    simp only [linkStep, linkRetryRead]
    split_ifs <;> simpa using h
  | settle => simpa [linkStep, linkSettle] using h

theorem filterStep_canonical (h : s.Canonical) (p : FilterPoint) : (filterStep l p s).Canonical := by
  cases p with
  | acquire x late =>
    rcases filterAcquire_cases l s x late with ⟨_, e⟩ | ⟨_, _, e⟩ | ⟨_, _, e⟩ <;> simpa [filterStep, e] using h
  | ctrlRead was late => simpa [filterStep, filterCtrlRead] using h
  | ctrlWrite v was late => simpa [filterStep, filterCtrlWrite] using h
  | program was late => simpa [filterStep, filterProgram] using h
  | release x late =>
    cases x with
    | ctrl => exact filterList_canonical l ((canonical_release s).mpr h) late
    | mcast => simpa [filterStep, filterRelease] using h
  | listRead acc late =>
    simp only [filterStep, filterListRead]
    split
    · simpa using h
    · exact filterListed_canonical l ((canonical_memRead s _ _).mpr h) _ late

theorem maskStep_canonical (h : s.Canonical) (p : MaskPoint) : (maskStep l p s).Canonical := by
  cases p <;> exact h.of_same rfl rfl rfl rfl

theorem queueStep_canonical (h : s.Canonical) (p : QueuePoint) : (queueStep l p s).Canonical := by
  cases p with
  | onRead q r => simpa [queueStep, onRead] using h
  | onWrite q v r =>
    simp only [queueStep, onWrite]
    split <;> simpa using h
  | onPoll q k r =>
    simp only [queueStep, onPoll]
    split_ifs <;> simpa using h
  | onDelay q k r => simpa [queueStep, onDelay] using h
  | enableRead q r => simpa [queueStep, enableRead] using h
  | enableWrite q v r => simpa [queueStep, enableWrite] using h
  | disableRead q r => simpa [queueStep, disableRead] using h
  | disableWrite q v r =>
    simp only [queueStep, disableWrite]
    split <;> simpa using h
  | offRead q r => simpa [queueStep, offRead] using h
  | offWrite q v r =>
    simp only [queueStep, offWrite]
    split <;> simpa using h
  | offPoll q k r =>
    simp only [queueStep, offPoll]
    split_ifs <;> simpa using h
  | offDelay q k r => simpa [queueStep, offDelay] using h

theorem startInstr_canonical (h : s.Canonical) (i : Instr) : (startInstr l i s).Canonical := by
  cases i with
  | init n => rcases initStart_cases l s with ⟨_, e⟩ | ⟨_, e⟩ <;> simpa [startInstr, e] using h
  | txSend block vle =>
    rcases sendStart_cases l s with ⟨_, e⟩ | ⟨_, _, e⟩ | ⟨_, _, e⟩ <;> simpa [startInstr, e] using h
  | txSendf block vle frags => rcases sendfStart_cases l s with ⟨_, e⟩ | ⟨_, e⟩ <;> simpa [startInstr, e] using h
  | txReclaim max =>
    simp only [startInstr, reclaimStart]
    split_ifs <;> simpa using h
  | rxPoll =>
    simp only [startInstr, pollStart]
    split <;> simpa using h
  | linkWait cd =>
    simp only [startInstr, linkStart]
    split_ifs <;> simpa using h
  | filterSet mcl mask =>
    simp only [startInstr, filterStart]
    split_ifs
    · simpa using h
    · simpa using h
    · exact filterList_canonical l h false
  | intMask => simpa [startInstr, maskStart] using h
  | rxEnable => simpa [startInstr] using h
  | rxDisable => simpa [startInstr] using h
  | txqEnable => simpa [startInstr] using h
  | txqDisable => simpa [startInstr] using h

theorem decodeStep_canonical (h : s.Canonical) : (decodeStep l s).Canonical := by
  rcases decodeStep_cases l s with ⟨_, e⟩ | ⟨_, _, e⟩ | ⟨_, i, _, ⟨_, _, e⟩ | ⟨_, e⟩⟩ <;> rw [e]
  · simpa using h
  · simpa using h
  · simpa using h
  · exact startInstr_canonical l h i

theorem engineStep_canonical (h : s.Canonical) (p : Point) : (engineStep l p s).Canonical := by
  cases p with
  | decode => exact decodeStep_canonical l h
  | init q => exact initStep_canonical l h q
  | tx q => exact txStep_canonical l h q
  | reclaim q => exact reclaimStep_canonical l h q
  | rx q => exact rxStep_canonical l h q
  | link q => exact linkStep_canonical l h q
  | filter q => exact filterStep_canonical l h q
  | mask q => exact maskStep_canonical l h q
  | queue q => exact queueStep_canonical l h q

end

/-! ### The steps of the NIC and the host, and the reset -/

/-- The NIC writes memory only when it sets a transmit descriptor's done bit, or a receive buffer and its descriptor (20_memory.md R80,
R81). -/
theorem nicStep_memWf {s : State} (h : memWf s.mem = true) (n : NicStep) : memWf (s.nicStep n).mem = true := by
  cases n with
  | transmit =>
    rcases nicTransmit_cases s _ _ rfl rfl with ⟨_, e⟩ | ⟨va, _, _, e⟩ <;> simp only [State.nicStep, e]
    · exact h
    · simp only [State.txStepEffect]
      split
      · exact setDone_memWf s.cfg h _ _
      · exact h
  | receive data wb =>
    rcases nicReceive_cases s data wb _ rfl with e | ⟨va, _, _, _, e⟩ <;> simp only [State.nicStep, e]
    · exact h
    · exact writeBytes_wf _ (writeBytes_wf _ h _) _
  | link up => exact h
  | phy v => exact h
  | queue q =>
    simp only [State.nicStep, State.nicQueue]
    split
    · cases q <;> exact h
    · exact h
  | corruptHead v => exact h

theorem nicStep_canonical {s : State} (h : s.Canonical) (n : NicStep) : (s.nicStep n).Canonical := by
  have hm := nicStep_memWf h.mem n
  obtain ⟨m, d, w, e⟩ := nicStep_frame s n
  rw [e] at hm ⊢
  exact ⟨hm, h.tx, h.rx, h.mc⟩

theorem hostWrite_canonical {s : State} (h : s.Canonical) (off : Nat) (v : Word) : (s.hostWrite off v).Canonical := by
  unfold State.hostWrite
  split
  · unfold State.cmdWrite
    split <;> simpa using h
  all_goals simpa using h

theorem hostStep_canonical {s : State} (h : s.Canonical) (x : HostStep) : (s.hostStep x).Canonical := by
  cases x with
  | write off v => exact hostWrite_canonical h off v
  | read off => exact h.of_same rfl rfl rfl rfl
  | store a bytes =>
    simp only [State.hostStep]
    split
    · exact ⟨writeBytes_wf bytes h.mem a, h.tx, h.rx, h.mc⟩
    · exact h
  | load a => exact h
  | lock =>
    simp only [State.hostStep]
    split
    · exact h
    · exact h.of_same rfl rfl rfl rfl
  | unlock => exact h.of_same rfl rfl rfl rfl
  | stopNic => rcases stopNic_cases s with e | ⟨_, _, e⟩ <;> simpa [State.hostStep, e] using h
  | resetNic d => rcases resetNic_cases s d with e | ⟨_, _, _, e⟩ <;> simpa [State.hostStep, e] using h

/-- A reset of the block empties the tables and leaves memory (70_reset_and_hazards.md R257). -/
theorem blockReset_canonical {s : State} (h : s.Canonical) : s.blockReset.Canonical :=
  ⟨h.mem, tableWf_nil noTx, tableWf_nil noRx, tableWf_nil 0⟩

theorem outside_canonical {s : State} (h : s.Canonical) (i : Input) : (s.outside i).Canonical := by
  cases i with
  | engine => exact h
  | await => exact h
  | nic n => exact nicStep_canonical h n
  | host x => exact hostStep_canonical h x
  | reset => exact blockReset_canonical h

/-- Settles O9: every operation either leaves memory and the tables or writes them through `tableSet`, which keeps the form. -/
theorem canonicalFormKept : Obligations.CanonicalFormKept := by
  intro s t h hstep
  exact step_keeps (fun w s _ h => (canonical_startCmd s w).mpr h) (fun s h => (canonical_overrun s).mpr h)
    (fun l p s _ h => engineStep_canonical l h p) (fun i s h => outside_canonical h i)
    (fun is s h => (canonical_setInputs s is).mpr h) s t h hstep

end Sys2Proof.Machine
end

/-! ## The NIC's own steps (20_memory.md R79 to R88)

A transmit step reads a buffer and may set a done bit, a receive step writes a buffer and a write-back, and both move a head; the other
steps change one bit or word of the NIC. -/

section

namespace Sys2Proof.Machine

/-! ### Flags of a byte, and the bits of a mask -/

theorem and_cmdEop_ne_zero (c : Byte) : ((c &&& cmdEop) != 0) = c.getLsbD 0 := by
  revert c
  decide

theorem and_cmdRs_ne_zero (c : Byte) : ((c &&& cmdRs) != 0) = c.getLsbD 3 := by
  revert c
  decide

theorem and_staDd_ne_zero (c : Byte) : ((c &&& staDd) != 0) = c.getLsbD 0 := by
  revert c
  decide

theorem or_and_mask (v mask : Word) : (v ||| mask) &&& mask = mask := by
  ext i
  simp +contextual

theorem or_and_not_mask (v mask : Word) : (v ||| mask) &&& ~~~mask = v &&& ~~~mask := by
  ext i
  cases h : mask[i] <;> simp [h]

/-! ### What the NIC writes to memory, and nothing else -/

/-- The done bit lies in the 16 bytes of its descriptor (20_memory.md R80). -/
theorem readByte_setDone_out (c : Config) (m : List (Nat × Byte)) {a b : Addr} (d : TxRec) (hb : ¬ inRange b a 16) :
    readByte (setDone c m a d) b = readByte m b := by
  unfold setDone
  cases c.descFormat with
  | legacy =>
    refine readByte_writeBytes_out _ m _ b fun h => hb ?_
    simp only [inRange, List.length_singleton] at h ⊢
    bv_omega
  | advanced => exact readByte_writeBytes_out _ m a b (by simpa only [descBytes_length] using hb)

/-- A receive step's two writes touch the buffer and the descriptor (20_memory.md R81). -/
theorem readByte_writeBack_out (m : List (Nat × Byte)) {va a b : Addr} (data : List Byte) (d : Desc)
    (hb : ¬ inRange b va data.length) (ha : ¬ inRange b a 16) :
    readByte (writeBytes (writeBytes m va data) a (descBytes d)) b = readByte m b := by
  rw [readByte_writeBytes_out _ _ a b (by simpa only [descBytes_length] using ha), readByte_writeBytes_out _ _ va b hb]

/-- The engine range of a device range that a mapping covers lies in the mapped range (20_memory.md R59). -/
theorem inRange_of_lookupMapping {da n : Nat} {va b : Addr} {ms : List Mapping} (h : lookupMapping da n ms = some va)
    (hb : inRange b va n) : ∃ m ∈ ms, inRange b m.va m.len := by
  obtain ⟨m, hm, hlo, hhi, rfl⟩ := lookupMapping_some h
  refine ⟨m, hm, ?_⟩
  have hsum : b - m.va = (b - (m.va + BitVec.ofNat 64 (da - m.da.toNat))) + BitVec.ofNat 64 (da - m.da.toNat) := by
    bv_omega
  have hoff : (BitVec.ofNat 64 (da - m.da.toNat)).toNat ≤ da - m.da.toNat := by
    rw [BitVec.toNat_ofNat]
    exact Nat.mod_le _ _
  simp only [inRange] at hb ⊢
  calc (b - m.va).toNat
      ≤ (b - (m.va + BitVec.ofNat 64 (da - m.da.toNat))).toNat + (BitVec.ofNat 64 (da - m.da.toNat)).toNat := by
        rw [hsum, BitVec.toNat_add]
        exact Nat.mod_le _ _
    _ < m.len := by omega

/-! ### The transmit step -/

theorem nicTransmit_of_enabled {s : State} {a va : Addr} {d : TxRec} (ha : a = s.nic.txSlot s.nic.tdh.toNat)
    (hd : d = decodeTx s.cfg (readDesc s.mem a)) (he : s.txStepEnabled = true)
    (hr : s.deviceRange d.addr d.length.toNat = some va) :
    s.nicTransmit = s.txStepEffect a d (readBytes s.mem va d.length.toNat) := by
  subst ha hd
  simp only [State.nicTransmit, he, if_true, hr]

theorem txStepEffect_mem (s : State) (a : Addr) (d : TxRec) (bytes : List Byte) :
    (s.txStepEffect a d bytes).mem = if d.cmd.getLsbD 3 then setDone s.cfg s.mem a d else s.mem := by
  simp only [State.txStepEffect, and_cmdRs_ne_zero]

/-- Settles O54: the effect of an enabled step, whose one write to memory is the done bit of the descriptor at the head. -/
theorem nicTransmitStep : Obligations.NicTransmitStep := by
  intro s a va d frame hcan hen ha hd hr hf
  subst hf
  refine ⟨_, nicTransmit_of_enabled ha hd hen hr, ?_, ?_, ?_, ?_⟩
  · simp only [State.txStepEffect, and_cmdEop_ne_zero, headNext, Nic.txSize]
  · intro hrs
    rw [txStepEffect_mem, if_pos hrs]
    exact decodeTx_setDone s.cfg hcan.mem a hd
  · intro hrs
    rw [txStepEffect_mem, hrs]
    rfl
  · intro b hb
    rw [txStepEffect_mem]
    split
    · exact readByte_setDone_out s.cfg s.mem d (hb (a, 16) List.mem_cons_self)
    · rfl

/-! ### The receive step -/

theorem nicReceive_of_enabled {s : State} {a va : Addr} {data : List Byte} {wb : RxRec} (ha : a = s.nic.rxSlot s.nic.rdh.toNat)
    (he : s.rxStepEnabled = true) (hc : s.receiveChoiceOk data wb = true)
    (hr : lookupMapping (decodeRx s.cfg (readDesc s.mem a)).addr.toNat data.length s.maps = some va) :
    s.nicReceive data wb =
      { s with
        mem := writeBytes (writeBytes s.mem va data) a (descBytes (encodeRxNic s.cfg wb))
        nic := { s.nic with rdh := headNext s.nic.rxSize s.nic.rdh } } := by
  subst ha
  simp only [State.nicReceive, he, hc, Bool.and_self, if_true, hr]

/-- Settles O55: the write-back is written last, so it reads back whole, and apart from it the buffer keeps the data. -/
theorem nicReceiveStep : Obligations.NicReceiveStep := by
  intro s a va data wb hcan hen ha hdd hlen hr hap
  have hsta : ((wb.sta &&& staDd) != 0) = true := (and_staDd_ne_zero wb.sta).trans hdd
  have hchoice : s.receiveChoiceOk data wb = true := by
    simp only [State.receiveChoiceOk, hsta, decide_eq_true hlen, Bool.or_true, Bool.and_self]
  have hfit : data.length ≤ 2 ^ 64 := by
    have := s.eng.b.isLt
    omega
  have hback := readDesc_writeBytes (writeBytes_wf data hcan.mem va) a (encodeRxNic s.cfg wb)
  obtain ⟨hlength, herrors, hflags⟩ := decodeRx_encodeRxNic s.cfg wb _ rfl hsta
  refine ⟨_, nicReceive_of_enabled ha hen hchoice hr, ?_, ?_, ?_, ?_, ?_, ?_, ?_⟩
  · simp only [headNext, Nic.rxSize]
  · rw [readBytes_writeBytes_out _ _ _ _ _ (by simpa only [descBytes_length] using hap) hfit]
    exact readBytes_writeBytes data hcan.mem va hfit
  · intro hleg
    rw [hback]
    exact decodeRx_encodeRxNic_legacy s.cfg wb hleg
  · rw [hback]
    exact hlength
  · rw [hback]
    exact herrors
  · rw [hback, show (0x03 : Byte) = staDd ||| staEop from by decide]
    exact hflags
  · intro b hb
    dsimp only
    exact readByte_writeBack_out s.mem data _ (hb (va, data.length) (by simp)) (hb (a, 16) (by simp))

/-! ### The contract -/

theorem ne_of_ringActive {n : Nat} {h t : Word} (hr : ringActive n h t = true) : h ≠ t := by
  simp only [ringActive, Bool.and_eq_true, bne_iff_ne] at hr
  obtain ⟨⟨hne, _⟩, _⟩ := hr
  exact hne

theorem tdh_ne_tdt_of_enabled {s : State} (he : s.txStepEnabled = true) : s.nic.tdh ≠ s.nic.tdt := by
  simp only [State.txStepEnabled, Bool.and_eq_true] at he
  obtain ⟨⟨⟨hr, _⟩, _⟩, _⟩ := he
  exact ne_of_ringActive hr

theorem rdh_ne_rdt_of_enabled {s : State} (he : s.rxStepEnabled = true) : s.nic.rdh ≠ s.nic.rdt := by
  simp only [State.rxStepEnabled, Bool.and_eq_true] at he
  obtain ⟨⟨⟨hr, _⟩, _⟩, _⟩ := he
  exact ne_of_ringActive hr

/-- No transmit step while the ring is empty, the transmitter is off or the queue is off (20_memory.md R80, R83). -/
theorem txStepEnabled_eq_false {s : State} (h : s.nic.tdh = s.nic.tdt ∨ s.nic.txCtrl &&& s.cfg.bTxEn = 0 ∨
    (s.cfg.queueHandshake = true ∧ s.nic.txqOn = false)) : s.txStepEnabled = false := by
  rcases h with h | h | ⟨h, h'⟩
  · simp [State.txStepEnabled, ringActive, h]
  · simp [State.txStepEnabled, h]
  · simp [State.txStepEnabled, h, h']

/-- No receive step while the ring is empty, the receiver is off or the queue is off (20_memory.md R81, R83). -/
theorem rxStepEnabled_eq_false {s : State} (h : s.nic.rdh = s.nic.rdt ∨ s.nic.rxCtrl &&& s.cfg.bRxEn = 0 ∨
    (s.cfg.queueHandshake = true ∧ s.nic.rxqOn = false)) : s.rxStepEnabled = false := by
  rcases h with h | h | ⟨h, h'⟩
  · simp [State.rxStepEnabled, ringActive, h]
  · simp [State.rxStepEnabled, h]
  · simp [State.rxStepEnabled, h, h']

/-- Everything a NIC step within the contract can do (20_memory.md R79): a change of the NIC alone that leaves its heads and tails, the
effect of an enabled transmit step, or that of an enabled receive step. -/
theorem nicStep_cases (s : State) {n : NicStep} (hn : ∀ v, n ≠ .corruptHead v) :
    (∃ d : Nic, s.nicStep n = s.setNic d ∧ d.tdh = s.nic.tdh ∧ d.tdt = s.nic.tdt ∧ d.rdh = s.nic.rdh ∧ d.rdt = s.nic.rdt) ∨
    (∃ d bytes, s.txStepEnabled = true ∧ s.nicStep n = s.txStepEffect (s.nic.txSlot s.nic.tdh.toNat) d bytes) ∨
    (∃ da va data wb, s.rxStepEnabled = true ∧ lookupMapping da (List.length data) s.maps = some va ∧ s.nicStep n =
      { s with
        mem := writeBytes (writeBytes s.mem va data) (s.nic.rxSlot s.nic.rdh.toNat) (descBytes (encodeRxNic s.cfg wb))
        nic := { s.nic with rdh := headNext s.nic.rxSize s.nic.rdh } }) := by
  cases n with
  | transmit =>
    rcases nicTransmit_cases s _ _ rfl rfl with ⟨_, e⟩ | ⟨va, he, _, e⟩
    · exact .inl ⟨s.nic, e, rfl, rfl, rfl, rfl⟩
    · exact .inr (.inl ⟨_, _, he, e⟩)
  | receive data wb =>
    rcases nicReceive_cases s data wb _ rfl with e | ⟨va, he, _, hr, e⟩
    · exact .inl ⟨s.nic, e, rfl, rfl, rfl, rfl⟩
    · exact .inr (.inr ⟨_, va, data, wb, he, hr, e⟩)
  | link up => exact .inl ⟨_, rfl, rfl, rfl, rfl, rfl⟩
  | phy v => exact .inl ⟨_, rfl, rfl, rfl, rfl, rfl⟩
  | queue q =>
    simp only [State.nicStep, State.nicQueue]
    split
    · cases q with
      | rx => exact .inl ⟨_, rfl, rfl, rfl, rfl, rfl⟩
      | tx => exact .inl ⟨_, rfl, rfl, rfl, rfl, rfl⟩
    · exact .inl ⟨s.nic, rfl, rfl, rfl, rfl, rfl⟩
  | corruptHead v => exact absurd rfl (hn v)

/-- Each head stays or moves by one slot while its ring is not empty, and the tails stay (20_memory.md R80, R81, R85). -/
theorem nicStep_rings (s : State) {n : NicStep} (hn : ∀ v, n ≠ .corruptHead v) :
    (s.nicStep n).nic.tdt = s.nic.tdt ∧ (s.nicStep n).nic.rdt = s.nic.rdt ∧
    ((s.nicStep n).nic.tdh = s.nic.tdh ∨
      (s.nic.tdh ≠ s.nic.tdt ∧ (s.nicStep n).nic.tdh = headNext s.nic.txSize s.nic.tdh)) ∧
    ((s.nicStep n).nic.rdh = s.nic.rdh ∨
      (s.nic.rdh ≠ s.nic.rdt ∧ (s.nicStep n).nic.rdh = headNext s.nic.rxSize s.nic.rdh)) := by
  rcases nicStep_cases s hn with ⟨d, e, htdh, htdt, hrdh, hrdt⟩ | ⟨d, bytes, he, e⟩ | ⟨da, va, data, wb, he, _, e⟩ <;> rw [e]
  · exact ⟨htdt, hrdt, .inl htdh, .inl hrdh⟩
  · exact ⟨rfl, rfl, .inr ⟨tdh_ne_tdt_of_enabled he, rfl⟩, .inl rfl⟩
  · exact ⟨rfl, rfl, .inl rfl, .inr ⟨rdh_ne_rdt_of_enabled he, rfl⟩⟩

/-- A byte that a NIC step changes lies in a descriptor at a head or in a mapped buffer (20_memory.md R85). -/
theorem nicStep_bytes (s : State) {n : NicStep} (hn : ∀ v, n ≠ .corruptHead v) {b : Addr}
    (hb : readByte (s.nicStep n).mem b ≠ readByte s.mem b) :
    inRange b (s.nic.txSlot s.nic.tdh.toNat) 16 ∨ inRange b (s.nic.rxSlot s.nic.rdh.toNat) 16 ∨
      ∃ m ∈ s.maps, inRange b m.va m.len := by
  by_contra hout
  obtain ⟨htx, hrx, hmaps⟩ : ¬ inRange b _ 16 ∧ ¬ inRange b _ 16 ∧ ¬ ∃ m ∈ s.maps, inRange b m.va m.len := by
    simpa only [not_or] using hout
  refine hb ?_
  rcases nicStep_cases s hn with ⟨d, e, _⟩ | ⟨d, bytes, _, e⟩ | ⟨da, va, data, wb, _, hr, e⟩ <;> rw [e]
  · rfl
  · rw [txStepEffect_mem]
    split
    · exact readByte_setDone_out s.cfg s.mem d htx
    · rfl
  · dsimp only
    exact readByte_writeBack_out s.mem data _ (fun h => hmaps (inRange_of_lookupMapping hr h)) hrx

/-- The link step changes `B_LU` alone, to what the NIC chose (20_memory.md R82). -/
theorem nicLink_status (s : State) (up : Bool) (hlu : s.cfg.bLu ≠ 0) :
    (s.nicLink up).nic.status &&& ~~~s.cfg.bLu = s.nic.status &&& ~~~s.cfg.bLu ∧
    (up = true ↔ (s.nicLink up).nic.status &&& s.cfg.bLu ≠ 0) := by
  cases up with
  | true => simpa [State.nicLink, or_and_mask, or_and_not_mask] using hlu
  | false => simp [State.nicLink, BitVec.and_assoc]

/-- Settles O56: what a step within the contract can do leaves the block, the tails and all other memory; the rest is read off each
step. -/
theorem nicKeepsToItsContract : Obligations.NicKeepsToItsContract := by
  refine ⟨?_, ?_, fun s v => rfl, ?_, ?_, ?_⟩
  · rintro s t n hn rfl
    obtain ⟨htdt, hrdt, htdh, hrdh⟩ := nicStep_rings s hn
    refine ⟨?_, htdt, hrdt, htdh, hrdh, fun b hb => nicStep_bytes s hn hb⟩
    obtain ⟨m, d, w, e⟩ := nicStep_frame s n
    rw [e]
  · intro s up hlu
    exact ⟨rfl, nicLink_status s up hlu⟩
  · intro s hq
    simp only [State.nicStep, State.nicQueue, hq, if_true]
    exact ⟨rfl, rfl⟩
  · intro s h
    simp [State.nicStep, State.nicTransmit, txStepEnabled_eq_false h]
  · intro s data wb h
    simp [State.nicStep, State.nicReceive, rxStepEnabled_eq_false h]

end Sys2Proof.Machine
end

/-! ## Numbers in memory, and the configurations and registers of 20_memory.md (R63, R65, R66, R68, R83, R84) -/

section

namespace Sys2Proof.Machine

/-! ### Little-endian numbers -/

/-- The bytes from `a` on as a number, the byte at `a` least significant (20_memory.md R63). -/
theorem leNat_readBytes (m : List (Nat × Byte)) : ∀ (n : Nat) (a : Addr), leNat (readBytes m a n) =
    ((List.range n).map fun k => (readByte m (a + BitVec.ofNat 64 k)).toNat * 2 ^ (8 * k)).sum
  | 0, _ => rfl
  | n + 1, a => by
    have hnext : ∀ k, (readByte m (a + 1 + BitVec.ofNat 64 k)).toNat * 2 ^ (8 * k) * 256 =
        (readByte m (a + BitVec.ofNat 64 (k + 1))).toNat * 2 ^ (8 * (k + 1)) := by
      intro k
      rw [BitVec.add_assoc, show (1 : Addr) + BitVec.ofNat 64 k = BitVec.ofNat 64 (k + 1) by bv_omega, Nat.mul_succ 8,
        Nat.pow_add, Nat.mul_assoc]
    rw [List.range_succ_eq_map, List.map_cons, List.sum_cons, List.map_map, readBytes, leNat, leNat_readBytes m n (a + 1),
      Nat.mul_comm 256, ← List.sum_map_mul_right]
    simp only [hnext, Function.comp_def]
    simp

/-- Settles O60: the sum by induction on the number of bytes, the read-back from that of bytes. -/
theorem numbersAreLittleEndian : Obligations.NumbersAreLittleEndian := by
  refine ⟨fun m a n => leNat_readBytes m n a, ?_⟩
  intro m a n v hm hv hn
  have hback := readBytes_writeBytes (leBytes n v) hm a (by rw [leBytes_length]; omega)
  rw [leBytes_length] at hback
  rw [hback, leNat_leBytes n v hv]

/-! ### Ill-formed configurations -/

theorem mem_allNicRegs (r : NicReg) : r ∈ allNicRegs := by
  cases r <;> decide

theorem oneBit_iff (w : Word) : oneBit w = true ↔ w ≠ 0 ∧ w &&& (w - 1) = 0 := by
  simp only [oneBit, Bool.and_eq_true, bne_iff_ne, beq_iff_eq]

/-- Ranges with a byte in common meet (20_memory.md R66). -/
theorem rangesMeet_of_mem {a m b n x : Nat} (ha : a ≤ x ∧ x < a + m) (hb : b ≤ x ∧ x < b + n) : rangesMeet a m b n = true := by
  simp only [rangesMeet, Bool.and_eq_true, decide_eq_true_eq]
  omega

/-- The constraints of a well-formed configuration (20_memory.md R65, R66; 10_state.md R35, R51). -/
theorem configWf_spec {c : Config} (hc : configWf c = true) :
    c.txRingBase.toNat % 128 = 0 ∧ c.rxRingBase.toNat % 128 = 0 ∧
    c.txRingBase.toNat + 16 * c.nMax ≤ 2 ^ 64 ∧ c.rxRingBase.toNat + 16 * c.nMax ≤ 2 ^ 64 ∧
    rangesMeet c.txRingBase.toNat (16 * c.nMax) c.rxRingBase.toNat (16 * c.nMax) = false ∧
    (∀ r, regOffset c r % 4 = 0) ∧ c.nMax ≤ 65535 ∧ c.maxFrags ≤ 255 ∧ c.maxMcast ≤ 255 ∧
    ∀ w ∈ [c.bLu, c.bRxEn, c.bUpe, c.bMpe, c.bBam, c.bTxEn, c.bQen], w ≠ 0 ∧ w &&& (w - 1) = 0 := by
  simp only [configWf, ringBytes, Bool.and_eq_true, decide_eq_true_eq, beq_iff_eq, Bool.not_eq_true', List.all_eq_true,
    oneBit_iff] at hc
  obtain ⟨⟨⟨⟨⟨⟨⟨⟨⟨htx, hrx⟩, htxEnd⟩, hrxEnd⟩, hapart⟩, hregs⟩, hn⟩, hf⟩, hm⟩, hbits⟩ := hc
  exact ⟨htx, hrx, of_decide_eq_true htxEnd, of_decide_eq_true hrxEnd, hapart, fun r => hregs r (mem_allNicRegs r), hn, hf, hm, hbits⟩

/-- Settles O7: each way to be ill formed contradicts one constraint, and steps and commands ask for them all first. -/
theorem illFormedConfigurationRefused : Obligations.IllFormedConfigurationRefused := by
  intro s i hill
  have hc : configWf s.cfg = false := by
    by_contra hwf
    obtain ⟨htx, hrx, htxEnd, hrxEnd, hapart, hregs, hn, hf, hm, hbits⟩ := configWf_spec (Bool.eq_true_of_not_eq_false hwf)
    rcases hill with h | h | ⟨r, h⟩ | ⟨x, htlo, hthi, hrlo, hrhi⟩ | h | h | h | h | h | ⟨w, hw, h⟩
    · exact h htx
    · exact h hrx
    · exact h (hregs r)
    · rw [rangesMeet_of_mem ⟨htlo, hthi⟩ ⟨hrlo, hrhi⟩] at hapart
      cases hapart
    · omega
    · omega
    · omega
    · omega
    · omega
    · obtain ⟨h0, h1⟩ := hbits w hw
      exact h.elim h0 (fun h => h h1)
  refine ⟨?_, ?_⟩
  · simp [step, hc]
  · simp [exec_eq, issueWord, hc]

/-! ### NIC registers -/

/-- The field of the NIC that a register shows: `O_IMS` and `O_IMC` are two registers of one set (20_memory.md R84). -/
def NicReg.field : NicReg → NicReg
  | .imc => .ims
  | r => r

/-- Of all pairs of registers, a write changes only a read that shows the same field. -/
theorem nicRead_nicWrite_ne (c : Config) (d : Nic) {r r' : NicReg} (h : r'.field ≠ r.field) (v : Word) :
    nicRead c (nicWrite d r v) r' = nicRead c d r' := by
  cases r <;> cases r' <;> first | rfl | exact absurd rfl h

theorem field_ne {r r' : NicReg} (hne : r' ≠ r) (hims : ¬ (r = .ims ∧ (r' = .ims ∨ r' = .imc)))
    (himc : ¬ (r = .imc ∧ (r' = .ims ∨ r' = .imc))) : r'.field ≠ r.field := by
  unfold NicReg.field
  split
  · split
    · exact absurd rfl hne
    · exact fun e => hims ⟨e.symm, .inr rfl⟩
  · split
    · exact fun e => himc ⟨rfl, .inl e⟩
    · exact hne

/-- Outside the enabled set, a register reads the word written, a queue-control register with its status bit (20_memory.md R83, R84). -/
theorem nicRead_nicWrite_same (c : Config) (d : Nic) {r : NicReg} (hs : r ≠ .status) (hims : r ≠ .ims) (himc : r ≠ .imc)
    (v : Word) : nicRead c (nicWrite d r v) r =
      if r = .rxqCtl then queueWord c v d.rxqOn else if r = .txqCtl then queueWord c v d.txqOn else v := by
  cases r <;> first | rfl | contradiction

/-- Settles O53, by the branches of its statement: `O_STATUS`, the two registers of the enabled set, the register written, the others. -/
theorem nicRegisterWrites : Obligations.NicRegisterWrites := by
  refine fun s r r' v => ⟨?_, rfl⟩
  by_cases hs : r = .status
  · subst hs
    rfl
  rw [if_neg hs]
  by_cases hims : r = .ims ∧ (r' = .ims ∨ r' = .imc)
  · rw [if_pos hims]
    obtain ⟨rfl, rfl | rfl⟩ := hims <;> rfl
  rw [if_neg hims]
  by_cases himc : r = .imc ∧ (r' = .ims ∨ r' = .imc)
  · rw [if_pos himc]
    obtain ⟨rfl, rfl | rfl⟩ := himc <;> rfl
  rw [if_neg himc]
  by_cases hr : r' = r
  · subst hr
    rw [if_pos rfl]
    exact nicRead_nicWrite_same s.cfg s.nic hs (fun e => hims ⟨e, .inl e⟩) (fun e => himc ⟨e, .inr e⟩) v
  · rw [if_neg hr]
    exact nicRead_nicWrite_ne s.cfg s.nic (field_ne hr hims himc) v

end Sys2Proof.Machine
end

/-! ## Command words, encoded and decoded (30_encoding.md R94 to R98)

A word is the five fields of R94 side by side, and each mask of R98 takes some of these fields whole: so a word that passes the test of its
row is the encoder's, field by field. -/

section

namespace Sys2Proof

/-! ### The fields of a command word (30_encoding.md R94) -/

/-- `W[15:10]`, the field RSV (R94). -/
def rsvField (w : Word) : BitVec 6 := w.extractLsb' 10 6

theorem extractLsb'_one_bit (w : Word) (i : Nat) : w.extractLsb' i 1 = BitVec.ofBool (w.getLsbD i) := by
  apply BitVec.eq_of_getLsbD_eq
  intro j hj
  obtain rfl : j = 0 := by omega
  simp

/-- A word is made of its fields. -/
theorem append_fields (w : Word) :
    immField w ++ rsvField w ++ BitVec.ofBool (f1Field w) ++ BitVec.ofBool (f0Field w) ++ opcField w = w := by
  rw [f1Field, f0Field, ← extractLsb'_one_bit, ← extractLsb'_one_bit, immField, rsvField, opcField,
    BitVec.extractLsb'_append_extractLsb'_eq_extractLsb' (by rfl : 16 = 10 + 6),
    BitVec.extractLsb'_append_extractLsb'_eq_extractLsb' (by rfl : 10 = 9 + 1),
    BitVec.extractLsb'_append_extractLsb'_eq_extractLsb' (by rfl : 9 = 8 + 1),
    BitVec.extractLsb'_append_extractLsb'_eq_extractLsb' (by rfl : 8 = 0 + 8)]
  exact BitVec.extractLsb'_eq_self

theorem rsvField_cmdWord (opc : BitVec 8) (f0 f1 : Bool) (imm : Half) : rsvField (cmdWord opc f0 f1 imm) = 0 := by
  apply BitVec.eq_of_getLsbD_eq
  intro i hi
  simp only [rsvField, cmdWord, BitVec.getLsbD_extractLsb', BitVec.getLsbD_append, hi, decide_true, Bool.true_and]
  rw [if_neg (by omega), if_neg (by omega), if_neg (by omega), if_pos (by omega)]
  simp

/-- A word whose `RSV` is 0 is the one the encoder builds from its fields. -/
theorem cmdWord_fields {w : Word} (hr : rsvField w = 0) :
    cmdWord (opcField w) (f0Field w) (f1Field w) (immField w) = w := by
  conv_rhs => rw [← append_fields w, hr]
  rfl

/-! ### The bits that must be 0 (30_encoding.md R98) -/

/-- A mask of R98: the six bits of `RSV`, the bits `hi` of `IMM`, and `F1` and `F0` as the row has them. -/
def reservedMask (hi : Half) (m1 m0 : Bool) : Word := hi ++ 0x3F#6 ++ BitVec.ofBool m1 ++ BitVec.ofBool m0 ++ 0#8

theorem append_and_append_eq_zero_iff {m n : Nat} (x x' : BitVec m) (y y' : BitVec n) :
    (x ++ y) &&& (x' ++ y') = 0 ↔ x &&& x' = 0 ∧ y &&& y' = 0 := by
  rw [BitVec.and_append]
  simp [← BitVec.toNat_inj, BitVec.toNat_append]

/-- The mask sees the fields one by one. -/
theorem and_reservedMask_eq_zero_iff (w : Word) (hi : Half) (m1 m0 : Bool) : w &&& reservedMask hi m1 m0 = 0 ↔
    immField w &&& hi = 0 ∧ rsvField w = 0 ∧ (f1Field w && m1) = false ∧ (f0Field w && m0) = false := by
  have hrsv : rsvField w &&& 0x3F#6 = rsvField w := BitVec.and_allOnes
  have hbit : ∀ b m : Bool, BitVec.ofBool b &&& BitVec.ofBool m = 0 ↔ (b && m) = false := by decide
  conv_lhs => rw [← append_fields w, reservedMask]
  refine (append_and_append_eq_zero_iff _ _ _ _).trans ?_
  simp only [append_and_append_eq_zero_iff, hrsv, hbit, BitVec.and_zero, and_assoc]
  exact Iff.rfl.and (Iff.rfl.and (Iff.rfl.and (and_iff_left rfl)))

/-- The test of a row's reserved bits passes exactly on the fields that the row admits. -/
theorem reservedZero_eq_command_iff {w mask : Word} (hi : Half) (m1 m0 : Bool) (hm : mask = reservedMask hi m1 m0)
    {i j : Instr} : reservedZero w mask i = .command j ↔
      (immField w &&& hi = 0 ∧ rsvField w = 0 ∧ (f1Field w && m1) = false ∧ (f0Field w && m0) = false) ∧ i = j := by
  rw [← and_reservedMask_eq_zero_iff, ← hm]
  rcases reservedZero_cases w mask i with ⟨h, e⟩ | ⟨h, e⟩
  · simp [h, e]
  · rw [e]
    exact ⟨nofun, fun hw => absurd hw.1 h⟩

/-- The encoder's word passes the test of its row, its flags and immediate being those the row admits. -/
theorem reservedZero_cmdWord {mask : Word} {opc : BitVec 8} {f0 f1 : Bool} {imm : Half} (hi : Half) (m1 m0 : Bool)
    (hm : mask = reservedMask hi m1 m0) (himm : imm &&& hi = 0) (h1 : (f1 && m1) = false) (h0 : (f0 && m0) = false)
    (i : Instr) : reservedZero (cmdWord opc f0 f1 imm) mask i = .command i :=
  (reservedZero_eq_command_iff hi m1 m0 hm).mpr ⟨⟨by rw [immField_cmdWord, himm], rsvField_cmdWord _ _ _ _,
    by rw [f1Field_cmdWord, h1], by rw [f0Field_cmdWord, h0]⟩, rfl⟩

/-- An immediate whose bits `IMM[15:5]` are 0 is a mask of five bits (30_encoding.md R98, R100). -/
theorem and_0xFFE0_eq_zero_iff (m : Half) : m &&& 0xFFE0#16 = 0 ↔ m.toNat < 32 := by
  constructor
  · intro h
    have hlow : m &&& 0x1F#16 = m := by
      calc m &&& 0x1F#16 = (m &&& 0xFFE0#16) ||| (m &&& 0x1F#16) := by rw [h]; exact BitVec.zero_or.symm
        _ = m &&& BitVec.allOnes 16 := by rw [← BitVec.and_or_distrib_left]; rfl
        _ = m := BitVec.and_allOnes
    rw [← hlow, BitVec.toNat_and]
    exact Nat.lt_of_le_of_lt Nat.and_le_right (by decide)
  · intro h
    obtain ⟨k, rfl⟩ : ∃ k : BitVec 5, m = k.setWidth 16 := ⟨m.setWidth 5, by bv_omega⟩
    clear h
    revert k
    decide

/-- Settles O1, one row of the table after the other: the opcode selects the row, whose reserved bits are 0 in the encoder's word. -/
theorem decodeOfEncode : Obligations.DecodeOfEncode := by
  intro i hwf
  cases i <;> simp only [encode, decode, opcField_cmdWord, f0Field_cmdWord, f1Field_cmdWord, immField_cmdWord,
    BitVec.reduceEq, if_true, if_false]
  case init | txReclaim => exact reservedZero_cmdWord 0 true true rfl BitVec.and_zero rfl rfl _
  case txSend => exact reservedZero_cmdWord 0xFFFF false false rfl rfl (Bool.and_false _) (Bool.and_false _) _
  case txSendf => exact reservedZero_cmdWord 0 false false rfl BitVec.and_zero (Bool.and_false _) (Bool.and_false _) _
  case linkWait => exact reservedZero_cmdWord 0xFFFF true false rfl rfl rfl (Bool.and_false _) _
  case filterSet mcl mask =>
    have hmask : mask.toNat < 32 := of_decide_eq_true hwf
    exact reservedZero_cmdWord 0xFFE0 true false rfl ((and_0xFFE0_eq_zero_iff mask).mpr hmask) rfl (Bool.and_false _) _
  case rxPoll | intMask | rxEnable | rxDisable | txqEnable | txqDisable =>
    exact reservedZero_cmdWord 0xFFFF true true rfl rfl rfl rfl _

/-- A word is the encoder's from the fields it must have. -/
theorem cmdWord_eq {w : Word} {opc : BitVec 8} {f0 f1 : Bool} {imm : Half} (ho : opcField w = opc) (hr : rsvField w = 0)
    (h0 : f0Field w = f0) (h1 : f1Field w = f1) (hi : immField w = imm) : cmdWord opc f0 f1 imm = w := by
  rw [← ho, ← h0, ← h1, ← hi, cmdWord_fields hr]

/-- A word of a row without operands, whose whole rest must be 0 (R98). -/
theorem cmdWord_eq_of_bare {w : Word} {opc : BitVec 8} {i j : Instr} (ho : opcField w = opc)
    (h : reservedZero w 0xFFFFFF00#32 i = .command j) : i = j ∧ cmdWord opc false false 0 = w := by
  obtain ⟨⟨hi, hr, h1, h0⟩, hij⟩ := (reservedZero_eq_command_iff 0xFFFF true true rfl).mp h
  exact ⟨hij, cmdWord_eq ho hr (by simpa using h0) (by simpa using h1) (BitVec.and_allOnes.symm.trans hi)⟩

/-- Settles O2, by the branches of the decoder: the opcode and the reserved bits leave no bit of the word to choose. -/
theorem encodeOfDecode : Obligations.EncodeOfDecode := by
  intro w i h
  have hone : ∀ {b : Bool}, (b && true) = false → b = false := by simp
  have himm : ∀ {m : Half}, m &&& 0xFFFF#16 = 0 → m = 0 := BitVec.and_allOnes.symm.trans
  unfold decode at h
  obtain ⟨ho, h⟩ | ⟨-, h⟩ := ite_eq_iff.mp h
  · obtain ⟨⟨-, hr, h1, h0⟩, rfl⟩ := (reservedZero_eq_command_iff 0 true true rfl).mp h
    exact ⟨rfl, cmdWord_eq ho hr (hone h0) (hone h1) rfl⟩
  obtain ⟨ho, h⟩ | ⟨-, h⟩ := ite_eq_iff.mp h
  · obtain ⟨⟨hi, hr, -, -⟩, rfl⟩ := (reservedZero_eq_command_iff 0xFFFF false false rfl).mp h
    exact ⟨rfl, cmdWord_eq ho hr rfl rfl (himm hi)⟩
  obtain ⟨ho, h⟩ | ⟨-, h⟩ := ite_eq_iff.mp h
  · obtain ⟨⟨-, hr, -, -⟩, rfl⟩ := (reservedZero_eq_command_iff 0 false false rfl).mp h
    exact ⟨rfl, cmdWord_eq ho hr rfl rfl rfl⟩
  obtain ⟨ho, h⟩ | ⟨-, h⟩ := ite_eq_iff.mp h
  · obtain ⟨⟨-, hr, h1, h0⟩, rfl⟩ := (reservedZero_eq_command_iff 0 true true rfl).mp h
    exact ⟨rfl, cmdWord_eq ho hr (hone h0) (hone h1) rfl⟩
  obtain ⟨ho, h⟩ | ⟨-, h⟩ := ite_eq_iff.mp h
  · obtain ⟨rfl, hw⟩ := cmdWord_eq_of_bare ho h
    exact ⟨rfl, hw⟩
  obtain ⟨ho, h⟩ | ⟨-, h⟩ := ite_eq_iff.mp h
  · obtain ⟨⟨hi, hr, h1, -⟩, rfl⟩ := (reservedZero_eq_command_iff 0xFFFF true false rfl).mp h
    exact ⟨rfl, cmdWord_eq ho hr rfl (hone h1) (himm hi)⟩
  obtain ⟨ho, h⟩ | ⟨-, h⟩ := ite_eq_iff.mp h
  · obtain ⟨⟨hi, hr, h1, -⟩, rfl⟩ := (reservedZero_eq_command_iff 0xFFE0 true false rfl).mp h
    exact ⟨decide_eq_true ((and_0xFFE0_eq_zero_iff _).mp hi), cmdWord_eq ho hr rfl (hone h1) rfl⟩
  obtain ⟨ho, h⟩ | ⟨-, h⟩ := ite_eq_iff.mp h
  · obtain ⟨rfl, hw⟩ := cmdWord_eq_of_bare ho h
    exact ⟨rfl, hw⟩
  obtain ⟨ho, h⟩ | ⟨-, h⟩ := ite_eq_iff.mp h
  · obtain ⟨rfl, hw⟩ := cmdWord_eq_of_bare ho h
    exact ⟨rfl, hw⟩
  obtain ⟨ho, h⟩ | ⟨-, h⟩ := ite_eq_iff.mp h
  · obtain ⟨rfl, hw⟩ := cmdWord_eq_of_bare ho h
    exact ⟨rfl, hw⟩
  obtain ⟨ho, h⟩ | ⟨-, h⟩ := ite_eq_iff.mp h
  · obtain ⟨rfl, hw⟩ := cmdWord_eq_of_bare ho h
    exact ⟨rfl, hw⟩
  obtain ⟨ho, h⟩ | ⟨-, h⟩ := ite_eq_iff.mp h
  · obtain ⟨rfl, hw⟩ := cmdWord_eq_of_bare ho h
    exact ⟨rfl, hw⟩
  exact absurd h nofun

/-- Settles O3: each of the ten words is the encoding of the command that the map gives it. -/
theorem wordsDecodeAsTheTableSays : Obligations.WordsDecodeAsTheTableSays :=
  ⟨decodeOfEncode (.init 8) rfl, decodeOfEncode (.txSend true true) rfl, decodeOfEncode (.txSendf false false 3) rfl,
    decodeOfEncode (.txReclaim 4) rfl, decodeOfEncode .rxPoll rfl, decodeOfEncode (.linkWait true) rfl,
    decodeOfEncode (.filterSet true 7) rfl, decodeOfEncode .intMask rfl, decodeOfEncode .rxEnable rfl,
    decodeOfEncode .txqDisable rfl⟩

/-- A word of no row of R96 (R97). -/
theorem decode_reservedOpcode {w : Word} (h : opcField w ∉ [0x01#8, 0x10#8, 0x11#8, 0x12#8, 0x20#8, 0x30#8, 0x40#8, 0x41#8,
    0x50#8, 0x51#8, 0x52#8, 0x53#8]) : decode w = .reject .reservedOpcode := by
  simp only [List.mem_cons, List.not_mem_nil, or_false, not_or] at h
  obtain ⟨h1, h2, h3, h4, h5, h6, h7, h8, h9, h10, h11, h12⟩ := h
  rw [decode, if_neg h1, if_neg h2, if_neg h3, if_neg h4, if_neg h5, if_neg h6, if_neg h7, if_neg h8, if_neg h9, if_neg h10,
    if_neg h11, if_neg h12]

/-- A word of a row of R96 with a bit of the row's mask set (R98). -/
theorem decode_reservedBits {w m : Word} (hrow : (opcField w, m) ∈ ([(0x01, 0x0000FF00), (0x10, 0xFFFFFC00), (0x11, 0x0000FC00),
      (0x12, 0x0000FF00), (0x20, 0xFFFFFF00), (0x30, 0xFFFFFE00), (0x40, 0xFFE0FE00), (0x41, 0xFFFFFF00), (0x50, 0xFFFFFF00),
      (0x51, 0xFFFFFF00), (0x52, 0xFFFFFF00), (0x53, 0xFFFFFF00)] : List (BitVec 8 × Word)))
    (h : w &&& m ≠ 0) : decode w = .reject .reservedBits := by
  simp only [List.mem_cons, List.not_mem_nil, or_false, Prod.mk.injEq] at hrow
  rcases hrow with ⟨ho, rfl⟩ | ⟨ho, rfl⟩ | ⟨ho, rfl⟩ | ⟨ho, rfl⟩ | ⟨ho, rfl⟩ | ⟨ho, rfl⟩ | ⟨ho, rfl⟩ | ⟨ho, rfl⟩ | ⟨ho, rfl⟩ |
    ⟨ho, rfl⟩ | ⟨ho, rfl⟩ | ⟨ho, rfl⟩ <;>
  · rw [decode, ho]
    exact if_neg h

/-- A filter mask with a bit of `IMM[15:5]` has a word, which is refused (R98). -/
theorem decode_encode_wide (mcl : Bool) {mask : Half} (h : 32 ≤ mask.toNat) :
    decode (encode (.filterSet mcl mask)) = .reject .reservedBits := by
  refine decode_reservedBits (m := 0xFFE0FE00) (by simp [encode, opcField_cmdWord]) fun h0 => ?_
  have hm := ((and_reservedMask_eq_zero_iff _ 0xFFE0 true false).mp h0).1
  rw [encode, immField_cmdWord] at hm
  exact absurd ((and_0xFFE0_eq_zero_iff mask).mp hm) (by omega)

/-- The one field that is wider than what is legal. -/
theorem wf_eq_false {i : Instr} (h : i.wf = false) : ∃ mcl mask, i = .filterSet mcl mask ∧ 32 ≤ mask.toNat := by
  cases i with
  | filterSet mcl mask => exact ⟨mcl, mask, rfl, by simpa [Instr.wf] using h⟩
  | _ => cases h

end Sys2Proof

end

/-! ## Commands that nothing else disturbs, and the decode step (10_state.md R19; 30_encoding.md R95 to R98)

On a block that can take a command, `exec` is the decode step and the engine's own steps after it. -/

section

namespace Sys2Proof.Machine

/-! ### Commands that only the engine moves (10_state.md R19) -/

section
variable {s : State}

/-- A command that did nothing but finish, from its start to its end. -/
theorem finish_startCmd (hq : s.eng.seq = .idle) (w : Word) (c : Status) : (s.startCmd w).finish c = s.endedWith c := by
  have he : { s.eng with seq := Seq.idle } = s.eng := by rw [← hq]
  simp only [State.endedWith, HostRegs.ended]
  exact congrArg (fun e => { s.endedWith c with eng := e }) he

/-- A command that made port actions and did nothing else but finish. -/
theorem finish_startCmd_ports (hq : s.eng.seq = .idle) (w : Word) (c : Status) (ps : List PortAction) :
    { (s.startCmd w).finish c with ports := ps } = { s.endedWith c with ports := ps } := by
  rw [finish_startCmd hq]

/-- The constant of `stepBound` is enough for a command without polls. -/
theorem le_stepBound {c : Config} {n : Nat} (h : n ≤ 524288) : n ≤ stepBound c := by
  unfold stepBound
  omega

/-- A host write of `CMD` to a block that can take it: the command is over after its decode and `k` more steps of the engine. -/
theorem issueWord_ready (hr : s.Ready) (w : Word) (k : Nat) {t : State} (hk : k + 1 ≤ stepBound s.cfg)
    (h : State.engineTurn^[k] (decodeStep (s.latch w) (s.startCmd w)) = t) (ht : t.eng.seq = .idle) :
    issueWord w s = .next t := by
  have hrun : State.engineTurn^[k + 1] (s.startCmd w) = t := h
  have hd : (s.startCmd w).drive = t := drive_quiet (k + 1) hr.inputs hr.lock hk hrun ht
  rcases issueWord_cases w s with ⟨hc, _⟩ | ⟨_, _, e⟩ | ⟨_, hq, _⟩
  · simp [hr.cfg] at hc
  · rw [e, hd]
  · exact absurd hr.idle hq

/-- A word that the decode step ends at once (30_encoding.md R95). -/
theorem issueWord_ended (hr : s.Ready) (w : Word) (c : Status)
    (h : decodeStep (s.latch w) (s.startCmd w) = (s.startCmd w).finish c) : issueWord w s = .next (s.endedWith c) := by
  rw [← finish_startCmd hr.idle w c]
  exact issueWord_ready hr w 0 (le_stepBound (by decide)) h rfl

/-- The decode of a word that is no command (R95, R97, R98). -/
theorem decodeStep_rejected {l : Latch} {why : DecodeError} (hf : s.eng.fault = false) (hd : decode l.word = .reject why) :
    decodeStep l s = s.refuse := by
  simp [decodeStep, hf, hd]

/-- The decode of a command that the INIT gate stops (R98). -/
theorem decodeStep_gated {l : Latch} {i : Instr} (hf : s.eng.fault = false) (hd : decode l.word = .command i)
    (hn : i.needsInit = true) (hw : s.eng.hwInit = false) : decodeStep l s = s.refuse := by
  simp [decodeStep, hf, hd, hn, hw]

/-- The decode of a command that passes the INIT gate runs the command's rule (R95, R98). -/
theorem decodeStep_command {l : Latch} {i : Instr} (hf : s.eng.fault = false) (hd : decode l.word = .command i)
    (hi : i.needsInit = true → s.eng.hwInit = true) : decodeStep l s = startInstr l i s := by
  have hgate : ¬ (i.needsInit && !s.eng.hwInit) = true := by simpa using hi
  simp only [decodeStep, hf, hd, if_neg hgate, Bool.false_eq_true, if_false]

theorem issueWord_rejected (hr : s.Ready) {w : Word} {why : DecodeError} (hd : decode w = .reject why) :
    issueWord w s = .next (s.endedWith .refused) :=
  issueWord_ended hr w .refused (decodeStep_rejected hr.fault hd)

/-- A well-formed command on a block that can take it: it is over `k` steps of the engine after its rule has started. -/
theorem exec_ready (hr : s.Ready) {i : Instr} (hwf : i.wf = true) (hi : i.needsInit = true → s.eng.hwInit = true) (k : Nat)
    {t : State} (hk : k + 1 ≤ stepBound s.cfg)
    (h : State.engineTurn^[k] (startInstr (s.latch (encode i)) i (s.startCmd (encode i))) = t) (ht : t.eng.seq = .idle) :
    exec i s = .next t := by
  rw [exec_eq]
  have hd : decodeStep (s.latch (encode i)) (s.startCmd (encode i)) = startInstr (s.latch (encode i)) i (s.startCmd (encode i)) :=
    decodeStep_command hr.fault (decodeOfEncode i hwf) hi
  exact issueWord_ready hr _ k hk (hd ▸ h) ht

/-- A well-formed command whose rule ends it before any port action. -/
theorem exec_ended (hr : s.Ready) {i : Instr} (hwf : i.wf = true) (hi : i.needsInit = true → s.eng.hwInit = true) (c : Status)
    (h : startInstr (s.latch (encode i)) i (s.startCmd (encode i)) = (s.startCmd (encode i)).finish c) :
    exec i s = .next (s.endedWith c) := by
  rw [← finish_startCmd hr.idle (encode i) c]
  exact exec_ready hr hwf hi 0 (le_stepBound (by decide)) h rfl

end

/-- Settles O4: none of the reserved values is an opcode of R96. -/
theorem reservedOpcodeRefused : Obligations.ReservedOpcodeRefused := by
  intro s w hr h
  refine issueWord_rejected hr (decode_reservedOpcode ?_)
  intro hmem
  have hopc : (opcField w).toNat ∈ [0x01, 0x10, 0x11, 0x12, 0x20, 0x30, 0x40, 0x41, 0x50, 0x51, 0x52, 0x53] :=
    List.mem_map_of_mem (f := BitVec.toNat) hmem
  simp only [List.mem_cons, List.not_mem_nil, or_false] at hopc
  omega

/-- Settles O5: the reserved bits and the INIT gate end the command at its decode; the three commands without the gate run. -/
theorem fieldConstraintsPerOpcode : Obligations.FieldConstraintsPerOpcode := by
  refine ⟨fun s w m hr hrow hm => issueWord_rejected hr (decode_reservedBits hrow hm), ?_, ?_⟩
  · intro s i hr hw hinit hlink hmask
    have hgate : i.needsInit = true := by
      cases i with
      | init n => exact absurd rfl (hinit n)
      | linkWait cd => exact absurd rfl (hlink cd)
      | intMask => exact absurd rfl hmask
      | _ => rfl
    rw [exec_eq]
    cases hwf : i.wf with
    | false =>
      obtain ⟨mcl, mask, rfl, hm⟩ := wf_eq_false hwf
      exact issueWord_rejected hr (decode_encode_wide mcl hm)
    | true => exact issueWord_ended hr _ .refused (decodeStep_gated hr.fault (decodeOfEncode i hwf) hgate hw)
  · intro s l i hf hd hi
    refine decodeStep_command hf hd fun hn => ?_
    rcases hi with ⟨n, rfl⟩ | ⟨cd, rfl⟩ | rfl <;> cases hn

end Sys2Proof.Machine

end

/-! ## Commands that end before they have changed anything (30_encoding.md R99, R100)

Each command's check passes exactly on its legal operands. -/

section

namespace Sys2Proof.Machine

/-! ### Command start, and the operands -/

/-- The bit above the status code is BUSY (10_state.md R30). -/
theorem or_busy (x : BitVec 27) (c : BitVec 4) : (x ++ 0#1 ++ c) ||| (0#27 ++ 1#1 ++ 0#4) = x ++ 1#1 ++ c := by
  rw [BitVec.or_append, BitVec.or_append, BitVec.or_zero, BitVec.or_zero, BitVec.zero_or]

/-- Command start sets BUSY and leaves the rest of `STATUS` (10_state.md R30, 30_encoding.md R95). -/
theorem statusWord_startCmd {s : State} (hq : s.eng.seq = .idle) (w : Word) :
    (s.startCmd w).statusWord = s.statusWord ||| 0x10 := by
  simp only [State.statusWord, State.startCmd_eng, State.startCmd_regs, hq, Seq.busy]
  exact (or_busy _ _).symm

/-- A later write of any register leaves the latch of the running command (30_encoding.md R99). -/
theorem hostWrite_seq {s : State} {l : Latch} {p : Point} (hq : s.eng.seq = .running l p) (off : Nat) (v : Word) :
    (s.hostWrite off v).eng.seq = .running l p :=
  ((hostWrite_course s off v).seq (by simp [hq])).trans hq

/-- Settles O20: command start is written field by field in the model, BUSY being the sequencer's state; no write moves a running command. -/
theorem commandStartLatchesTheOperands : Obligations.CommandStartLatchesTheOperands := by
  refine ⟨fun s w hq => ?_, fun s l p off v hq => hostWrite_seq hq off v⟩
  have hstart : s.hostWrite 0x00 w = s.startCmd w := by simp [State.hostWrite, State.cmdWrite, hq]
  rw [hstart]
  exact ⟨rfl, statusWord_startCmd hq w⟩

theorem wraps_eq_false_iff (a : Addr) (n : Nat) : wraps a n = false ↔ a.toNat + n ≤ 2 ^ 64 := by
  simp [wraps]

/-- Settles O30: the check's conditions as numbers; a length it lets pass fits in 16 bits. -/
theorem fragmentEntryCheck : Obligations.FragmentEntryCheck := by
  intro e
  have hzero : ∀ {n : Nat} (v : BitVec n), v = 0 ↔ v.toNat = 0 := fun v => by simp [← BitVec.toNat_inj]
  unfold fragOf
  dsimp only
  split
  next h =>
    rw [hzero, hzero, wraps, decide_eq_true_eq] at h
    exact ⟨iff_of_true rfl h, nofun⟩
  next h =>
    rw [hzero, hzero, wraps, decide_eq_true_eq] at h
    refine ⟨iff_of_false nofun h, fun f hf => ?_⟩
    obtain rfl := Option.some.inj hf
    refine ⟨rfl, ?_⟩
    rw [BitVec.toNat_setWidth, Nat.mod_eq_of_lt (by omega)]

/-! ### What the commands check before any action -/

section
variable {s : State}

theorem latch_imm_txSendf (s : State) (block vle : Bool) (f : Half) : (s.latch (encode (.txSendf block vle f))).imm = f.toNat :=
  congrArg BitVec.toNat (immField_cmdWord _ _ _ _)

theorem latch_imm_txReclaim (s : State) (max : Half) : (s.latch (encode (.txReclaim max))).imm = max.toNat :=
  congrArg BitVec.toNat (immField_cmdWord _ _ _ _)

theorem sendRefused_eq_false_iff (block vle : Bool) :
    sendRefused (s.latch (encode (.txSend block vle))) (s.startCmd (encode (.txSend block vle))) = false ↔ s.SendLegal vle := by
  have hf1 : (s.latch (encode (.txSend block vle))).f1 = vle := f1Field_cmdWord _ _ _ _
  simp only [sendRefused, txQueueClosed, hf1, Bool.or_eq_false_iff, decide_eq_false_iff_not, wraps_eq_false_iff,
    Bool.and_eq_false_imp, Bool.not_eq_false', not_not, State.startCmd_cfg, State.startCmd_eng]
  constructor
  · rintro ⟨⟨⟨⟨⟨hhi, hlo⟩, hva⟩, hrange⟩, htag⟩, hqueue⟩
    exact ⟨⟨hhi, hlo⟩, hva, hrange, htag, hqueue⟩
  · rintro ⟨⟨hhi, hlo⟩, hva, hrange, htag, hqueue⟩
    exact ⟨⟨⟨⟨⟨hhi, hlo⟩, hva⟩, hrange⟩, htag⟩, hqueue⟩

theorem sendfRefused_eq_false_iff (block vle : Bool) (f : Half) :
    sendfRefused (s.latch (encode (.txSendf block vle f))) (s.startCmd (encode (.txSendf block vle f))) = false ↔
      s.SendfLegal vle f.toNat := by
  have hf1 : (s.latch (encode (.txSendf block vle f))).f1 = vle := f1Field_cmdWord _ _ _ _
  simp only [sendfRefused, txQueueClosed, hf1, latch_imm_txSendf, Bool.or_eq_false_iff, decide_eq_false_iff_not, wraps_eq_false_iff,
    Bool.and_eq_false_imp, Bool.not_eq_false', not_not, State.startCmd_cfg, State.startCmd_eng]
  constructor
  · rintro ⟨⟨⟨⟨⟨hmin, hmax⟩, hlist⟩, hrange⟩, htag⟩, hqueue⟩
    exact ⟨by omega, hlist, hrange, htag, hqueue⟩
  · rintro ⟨hcount, hlist, hrange, htag, hqueue⟩
    exact ⟨⟨⟨⟨⟨by omega, by omega⟩, hlist⟩, hrange⟩, htag⟩, hqueue⟩

theorem reclaimRefused_eq_false_iff (max : Half) :
    reclaimRefused (s.latch (encode (.txReclaim max))) = false ↔ s.ReclaimLegal max.toNat := by
  simp only [reclaimRefused, latch_imm_txReclaim, Bool.and_eq_false_imp, Bool.or_eq_false_iff, decide_eq_false_iff_not, wraps_eq_false_iff,
    decide_eq_true_eq]
  exact Iff.rfl

theorem pollRefused_eq_false_iff :
    pollRefused (s.latch (encode .rxPoll)) (s.startCmd (encode .rxPoll)) = false ↔ s.PollLegal := by
  simp only [pollRefused, Bool.or_eq_false_iff, Bool.and_eq_false_imp, decide_eq_false_iff_not, wraps_eq_false_iff,
    decide_eq_true_eq, Bool.not_eq_false', State.startCmd_cfg, State.startCmd_eng]
  exact ⟨fun ⟨hd, hq⟩ => ⟨hd, hq⟩, fun ⟨hd, hq⟩ => ⟨hd, hq⟩⟩

theorem filterRefused_eq_false_iff (mcl : Bool) (mask : Half) :
    filterRefused (s.latch (encode (.filterSet mcl mask))) (s.startCmd (encode (.filterSet mcl mask))) = false ↔
      s.FilterLegal mcl := by
  have hf0 : (s.latch (encode (.filterSet mcl mask))).f0 = mcl := f0Field_cmdWord _ _ _ _
  simp only [filterRefused, hf0, Bool.and_eq_false_imp, Bool.or_eq_false_iff, decide_eq_false_iff_not, wraps_eq_false_iff,
    Bool.and_eq_true, and_imp]
  exact imp_congr_right fun _ => imp_congr_left decide_eq_true_iff

end

/-! ### Commands that end before their first action, or after one read -/

/-- Settles O27: the decode step of TX.SEND checks the operands, then the slot at the write cursor. -/
theorem txSendRefusedOrBusy : Obligations.TxSendRefusedOrBusy := by
  intro s block vle hr hw
  have hlegal := sendRefused_eq_false_iff (s := s) block vle
  constructor
  · intro h
    exact exec_ended hr rfl (fun _ => hw) .refused (if_pos (Bool.eq_true_of_not_eq_false (mt hlegal.mp h)))
  · intro h hb
    refine exec_ended hr rfl (fun _ => hw) .busy ?_
    exact (if_neg (ne_true_of_eq_false (hlegal.mpr h))).trans (if_neg (ne_true_of_eq_false hb))

/-- Settles O41: the decode step of FILTER.SET checks the list. -/
theorem filterSetRefused : Obligations.FilterSetRefused := by
  intro s mcl mask hr hw hmask hlegal
  have hwf : (Instr.filterSet mcl mask).wf = true := decide_eq_true hmask
  exact exec_ended hr hwf (fun _ => hw) .refused
    (if_pos (Bool.eq_true_of_not_eq_false (mt (filterRefused_eq_false_iff mcl mask).mp hlegal)))

/-- The engine's turn at a position is its step there. -/
theorem engineTurn_goto (l : Latch) (p : Point) (s : State) : (s.goto l p).engineTurn = engineStep l p (s.goto l p) := rfl

/-- A receive descriptor without DD, nor EOP where that is tested, is not completed (40_ring.md R132). -/
theorem rxDone_eq_false {c : Config} {d : RxRec} (hdd : d.sta.getLsbD 0 = false)
    (heop : c.rxTestEop = true → d.sta.getLsbD 1 = false) : rxDone c d = false := by
  have hbit : ∀ v : Byte, ((v &&& staEop) != 0) = v.getLsbD 1 := by decide
  simp only [rxDone, and_staDd_ne_zero, hbit, hdd, Bool.false_or, Bool.and_eq_false_imp]
  exact heop

/-- Settles O35: the decode step of RX.POLL checks the destination and the queue; its one action reads the descriptor at the cursor. -/
theorem rxPollRefusedOrEmpty : Obligations.RxPollRefusedOrEmpty := by
  intro s hr hw
  constructor
  · intro hlegal
    exact exec_ended hr rfl (fun _ => hw) .refused (if_pos (Bool.eq_true_of_not_eq_false (mt pollRefused_eq_false_iff.mp hlegal)))
  · intro hlegal hdd heop
    refine exec_ready hr rfl (fun _ => hw) 1 (le_stepBound (by decide)) ?_ hr.idle
    have hstart : pollStart (s.latch (encode .rxPoll)) (s.startCmd (encode .rxPoll)) =
        (s.startCmd (encode .rxPoll)).goto (s.latch (encode .rxPoll)) (.rx .read) :=
      if_neg (ne_true_of_eq_false (pollRefused_eq_false_iff.mpr hlegal))
    have hread : pollRead (s.latch (encode .rxPoll)) ((s.startCmd (encode .rxPoll)).goto (s.latch (encode .rxPoll)) (.rx .read)) =
        _ := if_pos (congrArg not (rxDone_eq_false hdd heop))
    change (pollStart _ _).engineTurn = _
    rw [hstart, engineTurn_goto]
    exact hread.trans (finish_startCmd_ports hr.idle (encode .rxPoll) .noData _)

/-- The cleanup cursor itself is in the span (41_transmit.md R158). -/
theorem headInSpan_txC (s : State) : s.headInSpan s.eng.txC.toNat = true := by
  simp [State.headInSpan, inSpan]

/-- TX.RECLAIM with legal operands and entries to reclaim goes on to the read of the head (41_transmit.md R157). -/
theorem reclaimStart_legal {s : State} {max : Half} (hmax : 0 < max.toNat) (hlegal : s.ReclaimLegal max.toNat) :
    reclaimStart (s.latch (encode (.txReclaim max))) (s.startCmd (encode (.txReclaim max))) =
      (s.startCmd (encode (.txReclaim max))).goto (s.latch (encode (.txReclaim max))) (.reclaim .head) :=
  (if_neg (ne_true_of_eq_false ((reclaimRefused_eq_false_iff max).mpr hlegal))).trans
    (if_neg (by rw [latch_imm_txReclaim]; omega))

/-- A legal head lets the walk begin (41_transmit.md R158). -/
theorem reclaimHead_turn (l : Latch) {s : State} (hn : (s.regVal .tdh).toNat < s.eng.n.toNat)
    (hspan : s.headInSpan (s.regVal .tdh).toNat = true) : (s.goto l (.reclaim .head)).engineTurn =
      reclaimNext l (s.regVal .tdh) 0 ((s.goto l (.reclaim .head)).regRead .tdh) :=
  (if_neg (Nat.not_le.mpr hn)).trans (if_pos hspan)

/-- Settles O32: the decode step of TX.RECLAIM checks the operands; on an empty ring the head passes and the first slot is free. -/
theorem txReclaimOfNothing : Obligations.TxReclaimOfNothing := by
  intro s max hr hw
  have hlegal := reclaimRefused_eq_false_iff (s := s) max
  refine ⟨?_, ?_, ?_⟩
  · intro hmax
    have himm : (s.latch (encode (.txReclaim max))).imm = 0 := by rw [latch_imm_txReclaim, hmax]; rfl
    have hok : s.ReclaimLegal max.toNat := fun h => absurd h (by rw [← latch_imm_txReclaim s, himm]; exact Nat.lt_irrefl 0)
    exact exec_ended hr rfl (fun _ => hw) .success ((if_neg (ne_true_of_eq_false (hlegal.mpr hok))).trans (if_pos himm))
  · intro h
    exact exec_ended hr rfl (fun _ => hw) .refused (if_pos (Bool.eq_true_of_not_eq_false (mt hlegal.mp h)))
  · intro hmax h hring hfree hhead
    refine exec_ready hr rfl (fun _ => hw) 1 (le_stepBound (by decide)) ?_ hr.idle
    have hn : s.nic.tdh.toNat < s.eng.n.toNat := hhead ▸ (hring.up hw).txC
    have hspan : s.headInSpan s.nic.tdh.toNat = true := hhead ▸ headInSpan_txC s
    change (reclaimStart _ _).engineTurn = _
    rw [reclaimStart_legal hmax h, reclaimHead_turn _ (by exact hn) (by exact hspan)]
    obtain ⟨_, e⟩ | ⟨_, _, hbound, _⟩ := reclaimNext_cases (s.latch (encode (.txReclaim max))) _ _ 0
    · exact e.trans (finish_startCmd_ports hr.idle (encode (.txReclaim max)) .success _)
    · exact absurd (hfree.symm.trans hbound) (by decide)

/-! ### The list of TX.SENDF (41_transmit.md R152, R153) -/

/-- What the first `n` entries of the list at `a` say. -/
def fragEntries (m : List (Nat × Byte)) (a : Addr) (n : Nat) : List (Option Frag) :=
  (List.range n).map fun j => fragOf (readDesc m (entryAddr a 16 j))

/-- The reads of the first `n` entries of the list at `a`, newest first. -/
def fragReads (a : Addr) (n : Nat) : List PortAction :=
  ((List.range n).map fun j => PortAction.memRead (entryAddr a 16 j) 16).reverse

/-- The state after the reads of the first `n` entries. -/
def State.readFrags (s : State) (a : Addr) (n : Nat) : State := { s with ports := fragReads a n ++ s.ports }

theorem fragEntries_length (m : List (Nat × Byte)) (a : Addr) (n : Nat) : (fragEntries m a n).length = n := by
  simp [fragEntries]

theorem fragEntries_succ (m : List (Nat × Byte)) (a : Addr) (n : Nat) :
    fragEntries m a (n + 1) = fragEntries m a n ++ [fragOf (readDesc m (entryAddr a 16 n))] := by
  simp [fragEntries, List.range_succ]

theorem fragReads_succ (a : Addr) (n : Nat) : fragReads a (n + 1) = .memRead (entryAddr a 16 n) 16 :: fragReads a n := by
  simp [fragReads, List.range_succ]

theorem fragReads_length (a : Addr) (n : Nat) : (fragReads a n).length = n := by simp [fragReads]

theorem fragReads_isMemRead (a : Addr) (n : Nat) : (fragReads a n).all (fun p => p.isMemRead) = true := by
  simp [fragReads, PortAction.isMemRead]

theorem readFrags_memRead (s : State) (l : Latch) (p : Point) (n : Nat) :
    (((s.readFrags l.arg0 n).goto l p).memRead (entryAddr l.arg0 16 n) 16) = (s.readFrags l.arg0 (n + 1)).goto l p := by
  simp only [State.readFrags, fragReads_succ]
  rfl

/-- One turn of the engine reads one entry; after the last one the whole list is looked at (41_transmit.md R153). -/
theorem fragRead_turn (l : Latch) (s : State) (k : Nat) :
    ((s.readFrags l.arg0 k).goto l (.tx (.fragRead (fragEntries s.mem l.arg0 k)))).engineTurn =
      if k + 1 < l.imm then (s.readFrags l.arg0 (k + 1)).goto l (.tx (.fragRead (fragEntries s.mem l.arg0 (k + 1))))
      else fragsRead l (fragEntries s.mem l.arg0 (k + 1))
        ((s.readFrags l.arg0 (k + 1)).goto l (.tx (.fragRead (fragEntries s.mem l.arg0 k)))) := by
  rw [engineTurn_goto, fragEntries_succ]
  have hcases := fragRead_cases l ((s.readFrags l.arg0 k).goto l (.tx (.fragRead (fragEntries s.mem l.arg0 k))))
    (fragEntries s.mem l.arg0 k) _ _ rfl rfl
  rw [fragEntries_length, readFrags_memRead] at hcases
  obtain ⟨h, e⟩ | ⟨h, e⟩ := hcases
  · rw [if_pos h]
    exact e
  · rw [if_neg h]
    exact e

theorem fragRead_iterate (l : Latch) (s : State) : ∀ k, k < l.imm →
    State.engineTurn^[k] (s.goto l (.tx (.fragRead []))) =
      (s.readFrags l.arg0 k).goto l (.tx (.fragRead (fragEntries s.mem l.arg0 k)))
  | 0, _ => rfl
  | k + 1, hk => by
    rw [Function.iterate_succ_apply', fragRead_iterate l s k (by omega), fragRead_turn, if_pos hk]

theorem fragRead_iterate_imm (l : Latch) (s : State) (hl : 0 < l.imm) : ∃ p,
    State.engineTurn^[l.imm] (s.goto l (.tx (.fragRead []))) =
      fragsRead l (fragEntries s.mem l.arg0 l.imm) ((s.readFrags l.arg0 l.imm).goto l p) := by
  obtain ⟨k, hk⟩ : ∃ k, l.imm = k + 1 := ⟨l.imm - 1, by omega⟩
  refine ⟨.tx (.fragRead (fragEntries s.mem l.arg0 k)), ?_⟩
  rw [hk, Function.iterate_succ_apply', fragRead_iterate l s k (by omega), fragRead_turn, if_neg (by omega)]

/-- TX.SENDF with legal operands, up to the end of its list: what the reads leave, once the list ends the command. -/
theorem exec_txSendf_listed {s : State} (hr : s.Ready) (hw : s.eng.hwInit = true) {block vle : Bool} {f : Half}
    (hlegal : s.SendfLegal vle f.toNat) (c : Status)
    (h : ∀ t : State, t.slotsFree f.toNat = s.slotsFree f.toNat →
      fragsRead (s.latch (encode (.txSendf block vle f))) (fragEntries s.mem s.regs.arg0 f.toNat) t = t.finish c) :
    exec (.txSendf block vle f) s = .next { s.endedWith c with ports := fragReads s.regs.arg0 f.toNat ++ s.ports } := by
  have himm := latch_imm_txSendf s block vle f
  refine exec_ready hr rfl (fun _ => hw) f.toNat (le_stepBound (by omega)) ?_ hr.idle
  have hstart : sendfStart (s.latch (encode (.txSendf block vle f))) (s.startCmd (encode (.txSendf block vle f))) = _ :=
    if_neg (ne_true_of_eq_false ((sendfRefused_eq_false_iff block vle f).mpr hlegal))
  change State.engineTurn^[f.toNat] (sendfStart _ _) = _
  obtain ⟨p, e⟩ := fragRead_iterate_imm (s.latch (encode (.txSendf block vle f))) (s.startCmd (encode (.txSendf block vle f)))
    (by rw [himm]; exact hlegal.count.1)
  rw [himm] at e
  rw [hstart, e]
  refine (h _ ?_).trans (finish_startCmd_ports hr.idle (encode (.txSendf block vle f)) c _)
  rfl

/-- A list that holds legal fragments says just these. -/
theorem fragEntries_of_listHolds {s : State} {fs : List Frag} (h : s.ListHolds fs) :
    fragEntries s.mem s.regs.arg0 fs.length = fs.map some := by
  refine List.ext_getElem (by simp [fragEntries]) fun j h1 h2 => ?_
  rw [List.length_map] at h2
  simpa [fragEntries] using h j fs[j] (List.getElem?_eq_getElem h2)

/-- Settles O29: the operands are checked before the list is read, and its entries and slots after. -/
theorem txSendfRefusedOrBusy : Obligations.TxSendfRefusedOrBusy := by
  intro s block vle f hr hw
  refine ⟨?_, ?_, ?_⟩
  · intro h
    exact exec_ended hr rfl (fun _ => hw) .refused
      (if_pos (Bool.eq_true_of_not_eq_false (mt (sendfRefused_eq_false_iff block vle f).mp h)))
  · rintro hlegal ⟨j, hj, hbad⟩
    refine ⟨_, exec_txSendf_listed hr hw hlegal .refused fun t _ => ?_, fragReads_isMemRead _ _, fragReads_length _ _⟩
    have hnone : none ∈ fragEntries s.mem s.regs.arg0 f.toNat := List.mem_map.mpr ⟨j, List.mem_range.mpr hj, hbad⟩
    rw [fragsRead, (allFrags_eq_none _).mpr hnone]
    rfl
  · intro fs hlegal hlen hlist hbound
    refine ⟨_, exec_txSendf_listed hr hw hlegal .busy fun t ht => ?_, fragReads_isMemRead _ _, fragReads_length _ _⟩
    rw [fragsRead, ← hlen, fragEntries_of_listHolds hlist, (allFrags_eq_some _ _).mpr rfl]
    cases fs with
    | nil => exact absurd hlegal.count.1 (by rw [← hlen]; exact Nat.not_succ_le_zero 0)
    | cons g gs => exact if_neg (by rw [latch_imm_txSendf, ht, hbound]; exact Bool.false_ne_true)

end Sys2Proof.Machine

end

/-! ## The walk of TX.RECLAIM over the completed slots (41_transmit.md R157 to R160)

Each slot takes four steps, whose effect is one function of the state. What the first `k` slots leave is an invariant in terms of the
state before the command: no step of a slot touches the descriptor or the output entry of another one, so the binding and descriptor that
the walk finds at each slot are those of before. -/

section

namespace Sys2Proof.Machine

/-! ### Addresses -/

/-- What TX.RECLAIM needs of its operands and the ring: the output array lies below 2^64 and apart from the rings, and the cleanup
cursor is a slot (41_transmit.md R157; 20_memory.md R66; 10_state.md R53). -/
structure State.ReclaimReady (s : State) (cap : Nat) : Prop where
  pos : 0 < cap
  cfg : configWf s.cfg = true
  ring : s.eng.n.toNat ≤ s.cfg.nMax
  cursor : s.eng.txC.toNat < s.eng.n.toNat
  array : s.regs.arg0.toNat + 8 * cap ≤ 2 ^ 64
  apart : overlapsRings s.cfg s.regs.arg0.toNat (8 * cap) = false

/-- The slots from the cleanup cursor on are different, up to once around the ring. -/
theorem slotFrom_ne {s : State} {j k : Nat} (hjk : j < k) (hk : k < s.eng.n.toNat) :
    slotFrom s.eng.txC s.eng.n j ≠ slotFrom s.eng.txC s.eng.n k := by
  intro h
  have hmod : j ≡ k [MOD s.eng.n.toNat] := Nat.ModEq.add_left_cancel' s.eng.txC.toNat h
  exact absurd (hmod.eq_of_lt_of_lt (by omega) hk) (by omega)

section
variable {s : State} {cap : Nat} (hp : s.ReclaimReady cap)
include hp

theorem slotFrom_lt (j : Nat) : slotFrom s.eng.txC s.eng.n j < s.eng.n.toNat :=
  Nat.mod_lt _ (Nat.zero_lt_of_lt hp.cursor)

theorem txSlotAddr_toNat {i : Nat} (hi : i < s.eng.n.toNat) :
    (txSlotAddr s.cfg i).toNat = s.cfg.txRingBase.toNat + 16 * i ∧ (txSlotAddr s.cfg i).toNat + 16 ≤ 2 ^ 64 := by
  obtain ⟨-, -, hend, -⟩ := configWf_spec hp.cfg
  have hring := hp.ring
  have haddr : (txSlotAddr s.cfg i).toNat = s.cfg.txRingBase.toNat + 16 * i := by
    rw [txSlotAddr, BitVec.toNat_add, BitVec.toNat_ofNat, Nat.mod_eq_of_lt (by omega), Nat.mod_eq_of_lt (by omega)]
  omega

/-- Descriptors of different slots have no byte in common. -/
theorem slots_apart {i j : Nat} (hi : i < s.eng.n.toNat) (hj : j < s.eng.n.toNat) (hij : i ≠ j) {b : Addr}
    (hb : inRange b (txSlotAddr s.cfg i) 16) : ¬ inRange b (txSlotAddr s.cfg j) 16 := by
  obtain ⟨hi1, hi2⟩ := txSlotAddr_toNat hp hi
  obtain ⟨hj1, hj2⟩ := txSlotAddr_toNat hp hj
  exact not_inRange_of_apart hj2 hi2 (by omega) hb

theorem entryAddr_toNat {j : Nat} (hj : j < cap) : (entryAddr s.regs.arg0 8 j).toNat = s.regs.arg0.toNat + 8 * j := by
  have harray := hp.array
  rw [entryAddr, BitVec.toNat_add, BitVec.toNat_ofNat, Nat.mod_eq_of_lt (by omega), Nat.mod_eq_of_lt (by omega)]

/-- Different entries of the output array have no byte in common. -/
theorem entries_apart {j k : Nat} (hj : j < cap) (hk : k < cap) (hjk : j ≠ k) {b : Addr}
    (hb : inRange b (entryAddr s.regs.arg0 8 j) 8) : ¬ inRange b (entryAddr s.regs.arg0 8 k) 8 := by
  have harray := hp.array
  have hj1 := entryAddr_toNat hp hj
  have hk1 := entryAddr_toNat hp hk
  exact not_inRange_of_apart (by omega) (by omega) (by omega) hb

/-- The first entries of the output array are a range from its start on. -/
theorem inRange_of_entry {j k : Nat} (hjk : j < k) (hk : k ≤ cap) {b : Addr}
    (hb : inRange b (entryAddr s.regs.arg0 8 j) 8) : inRange b s.regs.arg0 (8 * k) := by
  have harray := hp.array
  have hj1 := entryAddr_toNat hp (Nat.lt_of_lt_of_le hjk hk)
  simp only [inRange, BitVec.toNat_sub] at hb ⊢
  have := b.isLt
  omega

/-- The output array has no byte in a descriptor (20_memory.md R66). -/
theorem array_apart_slot {i k : Nat} (hi : i < s.eng.n.toNat) (hk : k ≤ cap) {b : Addr}
    (hb : inRange b (txSlotAddr s.cfg i) 16) : ¬ inRange b s.regs.arg0 (8 * k) := by
  obtain ⟨hi1, hi2⟩ := txSlotAddr_toNat hp hi
  have harray := hp.array
  have hring := hp.ring
  have hpos := hp.pos
  have hapart := (Bool.or_eq_false_iff.mp hp.apart).1
  have hpart : ¬ (s.regs.arg0.toNat < s.cfg.txRingBase.toNat + 16 * s.cfg.nMax ∧
      s.cfg.txRingBase.toNat < s.regs.arg0.toNat + 8 * cap) := by
    intro h
    refine absurd (hapart.symm.trans (rangesMeet_of_mem (x := max s.regs.arg0.toNat s.cfg.txRingBase.toNat) ?_ ?_)) (by decide)
    · omega
    · rw [ringBytes]
      omega
  exact not_inRange_of_apart (by omega) hi2 (by omega) hb

theorem slot_apart_entry {i j : Nat} (hi : i < s.eng.n.toNat) (hj : j < cap) {b : Addr}
    (hb : inRange b (txSlotAddr s.cfg i) 16) : ¬ inRange b (entryAddr s.regs.arg0 8 j) 8 :=
  fun he => array_apart_slot hp hi hj hb (inRange_of_entry hp (Nat.lt_succ_self j) hj he)

end

/-! ### What one slot's reclaim does (41_transmit.md R160) -/

/-- The end of a slot's reclaim, the `k`-th one, `d` being its descriptor: the done bit, the binding, the cursor, the count. -/
def State.clearSlot (t : State) (k : Nat) (d : TxRec) : State :=
  let i := t.eng.txC
  let w := staWrite t.cfg i.toNat d (d.sta &&& ~~~staDd)
  let u := (t.memWrite w.1 w.2).setTxBinding i.toNat noTx
  (u.setEng { u.eng with txC := adv i t.eng.n }).setRes2 (BitVec.ofNat 32 (k + 1))

/-- The effect of the steps that reclaim the slot at the cleanup cursor as the `k`-th one, `a` being the output array and `d` the
slot's descriptor. -/
def State.reclaimSlot (t : State) (a : Addr) (k : Nat) (d : TxRec) : State :=
  let i := t.eng.txC.toNat
  let b := t.txBinding i
  (((t.memRead (txSlotAddr t.cfg i) 16).unmap b.bind b.len.toNat).memWrite (entryAddr a 8 k) (leBytes 8 b.va.toNat)).clearSlot k d

/-- Memory after a caller's address `va` is written at `a` and the done bit of slot `i`, whose descriptor is `d`, is cleared. -/
def reclaimMem (c : Config) (m : List (Nat × Byte)) (a : Addr) (va : Nat) (i : Nat) (d : TxRec) : List (Nat × Byte) :=
  writeBytes (writeBytes m a (leBytes 8 va)) (staWrite c i d (d.sta &&& ~~~staDd)).1 (staWrite c i d (d.sta &&& ~~~staDd)).2

section
variable (t : State) (a : Addr) (k : Nat) (d : TxRec)

theorem reclaimSlot_outer : t.SameOuter (t.reclaimSlot a k d) := by
  constructor <;> simp [State.reclaimSlot, State.clearSlot]

theorem reclaimSlot_eng : (t.reclaimSlot a k d).eng =
    { t.eng with txTab := tableSet noTx t.eng.txTab t.eng.txC.toNat noTx, txC := adv t.eng.txC t.eng.n } := by
  simp [State.reclaimSlot, State.clearSlot]

theorem reclaimSlot_regs : (t.reclaimSlot a k d).regs = { t.regs with res2 := BitVec.ofNat 32 (k + 1) } := by
  simp [State.reclaimSlot, State.clearSlot]

theorem reclaimSlot_nic : (t.reclaimSlot a k d).nic = t.nic := by simp [State.reclaimSlot, State.clearSlot]

theorem reclaimSlot_mapper : (t.reclaimSlot a k d).mapper = t.mapper := by simp [State.reclaimSlot, State.clearSlot]

theorem reclaimSlot_mapCount : (t.reclaimSlot a k d).mapCount = t.mapCount := by simp [State.reclaimSlot, State.clearSlot]

theorem reclaimSlot_maps : (t.reclaimSlot a k d).maps =
    dropMapping (t.txBinding t.eng.txC.toNat).bind (t.txBinding t.eng.txC.toNat).len.toNat t.maps := by
  simp [State.reclaimSlot, State.clearSlot]

theorem reclaimSlot_mem : (t.reclaimSlot a k d).mem =
    reclaimMem t.cfg t.mem (entryAddr a 8 k) (t.txBinding t.eng.txC.toNat).va.toNat t.eng.txC.toNat d := by
  simp [State.reclaimSlot, State.clearSlot, reclaimMem]

theorem reclaimSlot_ports : (t.reclaimSlot a k d).ports =
    .memWrite (staWrite t.cfg t.eng.txC.toNat d (d.sta &&& ~~~staDd)).1 (staWrite t.cfg t.eng.txC.toNat d (d.sta &&& ~~~staDd)).2 ::
    .memWrite (entryAddr a 8 k) (leBytes 8 (t.txBinding t.eng.txC.toNat).va.toNat) ::
    .unmap (t.txBinding t.eng.txC.toNat).bind (t.txBinding t.eng.txC.toNat).len.toNat ::
    .memRead (txSlotAddr t.cfg t.eng.txC.toNat) 16 :: t.ports := by
  simp [State.reclaimSlot, State.clearSlot]

end

theorem reclaimNext_goto (l : Latch) (h : Word) (k : Nat) (p : Point) (t : State) :
    reclaimNext l h k (t.goto l p) = reclaimNext l h k t := by
  unfold reclaimNext
  rfl

/-- A slot whose descriptor is done is reclaimed in four steps. -/
theorem reclaim_iterate (l : Latch) (h : Word) (k : Nat) {t : State} (hdone : txDone (t.txRecAt t.eng.txC.toNat) = true) :
    State.engineTurn^[4] (t.goto l (.reclaim (.read h k))) =
      reclaimNext l h (k + 1) (t.reclaimSlot l.arg0 k (t.txRecAt t.eng.txC.toNat)) := by
  have hread : (t.goto l (.reclaim (.read h k))).engineTurn =
      (t.memRead (txSlotAddr t.cfg t.eng.txC.toNat) 16).goto l (.reclaim (.unmap h k (t.txRecAt t.eng.txC.toNat))) :=
    if_pos hdone
  generalize t.txRecAt t.eng.txC.toNat = d at hread ⊢
  have hunmap (u : State) : (u.goto l (.reclaim (.unmap h k d))).engineTurn =
      (u.unmap (u.txBinding u.eng.txC.toNat).bind (u.txBinding u.eng.txC.toNat).len.toNat).goto l (.reclaim (.output h k d)) := rfl
  have houtput (u : State) : (u.goto l (.reclaim (.output h k d))).engineTurn =
      (u.memWrite (entryAddr l.arg0 8 k) (leBytes 8 (u.txBinding u.eng.txC.toNat).va.toNat)).goto l
        (.reclaim (.clear h k d)) := rfl
  have hclear (u : State) : (u.goto l (.reclaim (.clear h k d))).engineTurn = reclaimNext l h (k + 1) (u.clearSlot k d) :=
    reclaimNext_goto l h (k + 1) (.reclaim (.clear h k d)) (u.clearSlot k d)
  rw [Function.iterate_succ_apply, hread, Function.iterate_succ_apply, hunmap, Function.iterate_succ_apply, houtput,
    Function.iterate_succ_apply, hclear]
  rfl

/-- A slot whose descriptor is not done ends the command. -/
theorem reclaim_turn_not_done (l : Latch) (h : Word) (k : Nat) {t : State} (hdone : txDone (t.txRecAt t.eng.txC.toNat) = false) :
    (t.goto l (.reclaim (.read h k))).engineTurn = (t.memRead (txSlotAddr t.cfg t.eng.txC.toNat) 16).finish .success :=
  if_neg (ne_true_of_eq_false hdone)

/-! ### What it does to memory -/

section
variable {c : Config} {m : List (Nat × Byte)} {a : Addr} {va i : Nat} {d : TxRec}

theorem readByte_reclaimMem_out {b : Addr} (ha : ¬ inRange b a 8) (hi : ¬ inRange b (txSlotAddr c i) 16) :
    readByte (reclaimMem c m a va i d) b = readByte m b := by
  rw [reclaimMem, readByte_writeBytes_out _ _ _ _ fun h => hi (staWrite_inside c i d _ b h),
    readByte_writeBytes_out _ _ _ _ (by rwa [leBytes_length])]

variable (hm : memWf m = true) (hap : ∀ b, inRange b (txSlotAddr c i) 16 → ¬ inRange b a 8)
include hm hap

/-- The caller's address reads back. -/
theorem leNat_reclaimMem (hva : va < 256 ^ 8) : leNat (readBytes (reclaimMem c m a va i d) a 8) = va := by
  have hback := readBytes_writeBytes (leBytes 8 va) hm a (by rw [leBytes_length]; decide)
  rw [leBytes_length] at hback
  rw [reclaimMem, readBytes_writeBytes_out _ _ _ _ _ (fun b hb h => hap b (staWrite_inside c i d _ b h) hb) (by decide), hback,
    leNat_leBytes 8 va hva]

/-- The descriptor has its done bit cleared, and is else as before. -/
theorem decodeTx_reclaimMem (hd : d = decodeTx c (readDesc m (txSlotAddr c i))) :
    decodeTx c (readDesc (reclaimMem c m a va i d) (txSlotAddr c i)) = { d with sta := d.sta &&& ~~~staDd } := by
  refine decodeTx_staWrite c (writeBytes_wf _ hm a) i ?_ rfl
  rw [readDesc_writeBytes_out _ _ _ _ (by rwa [leBytes_length]), hd]

end

/-! ### What the slots reclaimed so far leave -/

/-- The `j`-th slot from the cleanup cursor of `s` on is reclaimed in `t`: it was bound and done, it is free with done bit 0, and its
caller's address stands in the output array (41_transmit.md R160). -/
structure State.SlotReclaimed (s t : State) (j : Nat) : Prop where
  bound : s.slotFree (slotFrom s.eng.txC s.eng.n j) = false
  done : txDone (s.txRecAt (slotFrom s.eng.txC s.eng.n j)) = true
  unbound : t.txBinding (slotFrom s.eng.txC s.eng.n j) = noTx
  record : t.txRecAt (slotFrom s.eng.txC s.eng.n j) =
    { s.txRecAt (slotFrom s.eng.txC s.eng.n j) with sta := (s.txRecAt (slotFrom s.eng.txC s.eng.n j)).sta &&& ~~~staDd }
  caller : leNat (readBytes t.mem (entryAddr s.regs.arg0 8 j) 8) = (s.txBinding (slotFrom s.eng.txC s.eng.n j)).va.toNat

/-- The port actions that reclaim the `j`-th slot, in their order. -/
def State.reclaimPorts (s : State) (j : Nat) : List PortAction :=
  let i := slotFrom s.eng.txC s.eng.n j
  let w := staWrite s.cfg i (s.txRecAt i) ((s.txRecAt i).sta &&& ~~~staDd)
  [.memRead (txSlotAddr s.cfg i) 16, .unmap (s.txBinding i).bind (s.txBinding i).len.toNat,
    .memWrite (entryAddr s.regs.arg0 8 j) (leBytes 8 (s.txBinding i).va.toNat), .memWrite w.1 w.2]

/-- The bytes that the first `k` slots' reclaim may write. -/
def State.reclaimRanges (s : State) (k : Nat) : List (Addr × Nat) :=
  (s.regs.arg0, 8 * k) :: (List.range k).map fun j => (txSlotAddr s.cfg (slotFrom s.eng.txC s.eng.n j), 16)

/-- A byte is outside these ranges. -/
theorem outside_reclaimRanges_iff {s : State} {k : Nat} {b : Addr} : (∀ r ∈ s.reclaimRanges k, ¬ inRange b r.1 r.2) ↔
    ¬ inRange b s.regs.arg0 (8 * k) ∧
      ∀ j, j < k → ¬ inRange b (txSlotAddr s.cfg (slotFrom s.eng.txC s.eng.n j)) 16 := by
  simp [State.reclaimRanges]

/-- `t` is `s` with its first `k` slots from the cleanup cursor on reclaimed by a running TX.RECLAIM, which has read the head. -/
structure State.Reclaimed (s : State) (k : Nat) (t : State) : Prop where
  outer : s.SameOuter t
  count : k ≤ s.eng.n.toNat
  regs : t.regs = { s.regs.ended s.regs.code with res2 := BitVec.ofNat 32 k }
  eng : t.eng = { s.eng with
    seq := t.eng.seq, txTab := t.eng.txTab, txC := BitVec.ofNat 16 (slotFrom s.eng.txC s.eng.n k) }
  nic : t.nic = s.nic
  mapper : t.mapper = s.mapper
  mapCount : t.mapCount = s.mapCount
  mem : memWf t.mem = true
  tab : tableWf noTx t.eng.txTab = true
  head : ∀ j, 0 < j → j < k → slotFrom s.eng.txC s.eng.n j ≠ s.nic.tdh.toNat
  slots : ∀ j, j < k → s.SlotReclaimed t j
  others : ∀ i, (∀ j, j < k → i ≠ slotFrom s.eng.txC s.eng.n j) → t.txBinding i = s.txBinding i
  maps : t.maps = (List.range k).foldl (fun ms j => dropMapping (s.txBinding (slotFrom s.eng.txC s.eng.n j)).bind
    (s.txBinding (slotFrom s.eng.txC s.eng.n j)).len.toNat ms) s.maps
  bytes : s.SameBytesBut t (s.reclaimRanges k)
  ports : t.ports = ((List.range k).flatMap s.reclaimPorts).reverse ++ .regRead s.cfg.oTdh s.nic.tdh :: s.ports

/-- After the read of the head nothing is reclaimed. -/
theorem reclaimed_zero {s : State} (hc : s.Canonical) (hcur : s.eng.txC.toNat < s.eng.n.toNat) (w : Word)
    (l : Latch) : s.Reclaimed 0 (((s.startCmd w).goto l (.reclaim .head)).regRead .tdh) where
  outer := ⟨rfl, rfl, rfl, rfl, rfl⟩
  count := Nat.zero_le _
  regs := rfl
  eng := by
    simp [slotFrom, Nat.mod_eq_of_lt hcur]
  nic := rfl
  mapper := rfl
  mapCount := rfl
  mem := hc.mem
  tab := hc.tx
  head := by omega
  slots := by omega
  others := fun _ _ => rfl
  maps := rfl
  bytes := fun _ _ => rfl
  ports := rfl

section
variable {s t : State} {cap k : Nat} (h : s.Reclaimed k t)
include h

/-- Until it is reclaimed a slot has the binding of before. -/
theorem State.Reclaimed.txBinding_next (hk : k < s.eng.n.toNat) : t.txBinding (slotFrom s.eng.txC s.eng.n k) =
    s.txBinding (slotFrom s.eng.txC s.eng.n k) :=
  h.others _ fun _ hj => (slotFrom_ne hj hk).symm

variable (hp : s.ReclaimReady cap)
include hp

theorem State.Reclaimed.txC_toNat : t.eng.txC.toNat = slotFrom s.eng.txC s.eng.n k := by
  have hlt := slotFrom_lt hp k
  have hn := s.eng.n.isLt
  rw [h.eng, BitVec.toNat_ofNat, Nat.mod_eq_of_lt (by omega)]

/-- A slot that is still bound is not one of those reclaimed: the reclaim has not come round the ring. -/
theorem State.Reclaimed.lt_of_bound (hb : t.slotFree t.eng.txC.toNat = false) : k < s.eng.n.toNat := by
  refine Nat.lt_of_le_of_ne h.count fun hk => ?_
  have hpos : 0 < k := by have := hp.cursor; omega
  have hround : slotFrom s.eng.txC s.eng.n k = slotFrom s.eng.txC s.eng.n 0 := by
    rw [hk, slotFrom, slotFrom, Nat.add_mod_right, Nat.add_zero]
  have hfree : t.slotFree (slotFrom s.eng.txC s.eng.n k) = true := by
    rw [hround, State.slotFree, (h.slots 0 hpos).unbound]
    rfl
  rw [h.txC_toNat hp, hfree] at hb
  cases hb

/-- Until it is reclaimed a slot has the descriptor of before. -/
theorem State.Reclaimed.txRecAt_next (hk : k < s.eng.n.toNat) (hcap : k ≤ cap) : t.txRecAt (slotFrom s.eng.txC s.eng.n k) =
    s.txRecAt (slotFrom s.eng.txC s.eng.n k) := by
  have hread : readDesc t.mem (txSlotAddr s.cfg (slotFrom s.eng.txC s.eng.n k)) =
      readDesc s.mem (txSlotAddr s.cfg (slotFrom s.eng.txC s.eng.n k)) := by
    unfold readDesc
    rw [readBytes_congr 16 _ (fun b hb => h.bytes b (outside_reclaimRanges_iff.mpr ⟨?_, fun j hj => ?_⟩)) (by decide)]
    · exact array_apart_slot hp (slotFrom_lt hp k) hcap hb
    · exact slots_apart hp (slotFrom_lt hp k) (slotFrom_lt hp j) (slotFrom_ne hj hk).symm hb
  rw [State.txRecAt, State.txRecAt, h.outer.cfg, hread]

theorem State.Reclaimed.adv_txC : adv t.eng.txC t.eng.n = BitVec.ofNat 16 (slotFrom s.eng.txC s.eng.n (k + 1)) := by
  have hn : t.eng.n = s.eng.n := by rw [h.eng]
  rw [adv, h.txC_toNat hp, hn, slotFrom, slotFrom, Nat.mod_add_mod, Nat.add_assoc]

end

/-- `u` is `t` with the `k`-th slot from the cleanup cursor of `s` on reclaimed (41_transmit.md R160). -/
structure State.SlotEffect (s : State) (k : Nat) (t u : State) : Prop where
  outer : t.SameOuter u
  eng : u.eng = { t.eng with
    txTab := tableSet noTx t.eng.txTab (slotFrom s.eng.txC s.eng.n k) noTx
    txC := BitVec.ofNat 16 (slotFrom s.eng.txC s.eng.n (k + 1)) }
  regs : u.regs = { t.regs with res2 := BitVec.ofNat 32 (k + 1) }
  nic : u.nic = t.nic
  mapper : u.mapper = t.mapper
  mapCount : u.mapCount = t.mapCount
  maps : u.maps = dropMapping (s.txBinding (slotFrom s.eng.txC s.eng.n k)).bind
    (s.txBinding (slotFrom s.eng.txC s.eng.n k)).len.toNat t.maps
  mem : u.mem = reclaimMem s.cfg t.mem (entryAddr s.regs.arg0 8 k) (s.txBinding (slotFrom s.eng.txC s.eng.n k)).va.toNat
    (slotFrom s.eng.txC s.eng.n k) (s.txRecAt (slotFrom s.eng.txC s.eng.n k))
  ports : u.ports = (s.reclaimPorts k).reverse ++ t.ports

/-- The binding and the descriptor that the reclaim finds are those of before the command. -/
theorem State.Reclaimed.slotEffect {s t : State} {cap k : Nat} (h : s.Reclaimed k t) (hp : s.ReclaimReady cap) (hk : k < cap)
    (hkn : k < s.eng.n.toNat) :
    s.SlotEffect k t (t.reclaimSlot s.regs.arg0 k (t.txRecAt (slotFrom s.eng.txC s.eng.n k))) := by
  have hi := h.txC_toNat hp
  have hbind := h.txBinding_next hkn
  rw [h.txRecAt_next hp hkn (Nat.le_of_lt hk)]
  exact {
    outer := reclaimSlot_outer ..
    eng := by rw [reclaimSlot_eng, hi, h.adv_txC hp]
    regs := reclaimSlot_regs ..
    nic := reclaimSlot_nic ..
    mapper := reclaimSlot_mapper ..
    mapCount := reclaimSlot_mapCount ..
    maps := by rw [reclaimSlot_maps, hi, hbind]
    mem := by rw [reclaimSlot_mem, hi, hbind, h.outer.cfg]
    ports := by
      rw [reclaimSlot_ports, hi, hbind, h.outer.cfg]
      rfl }

section
variable {s t u : State} {cap k : Nat} (he : s.SlotEffect k t u)
include he

theorem State.SlotEffect.readByte_out {b : Addr} (hb : ¬ inRange b (entryAddr s.regs.arg0 8 k) 8)
    (hs : ¬ inRange b (txSlotAddr s.cfg (slotFrom s.eng.txC s.eng.n k)) 16) : readByte u.mem b = readByte t.mem b := by
  rw [he.mem]
  exact readByte_reclaimMem_out hb hs

theorem State.SlotEffect.txBinding_ne {i : Nat} (hi : i ≠ slotFrom s.eng.txC s.eng.n k) : u.txBinding i = t.txBinding i := by
  rw [State.txBinding, he.eng, tableGet_set_ne noTx hi]
  rfl

variable (hp : s.ReclaimReady cap) (hk : k < cap) (hkn : k < s.eng.n.toNat) (h : s.Reclaimed k t)
include hp hk hkn h

/-- A slot's reclaim leaves what those of earlier slots left. -/
theorem State.SlotEffect.keeps {j : Nat} (hj : j < k) : s.SlotReclaimed u j where
  bound := (h.slots j hj).bound
  done := (h.slots j hj).done
  unbound := (he.txBinding_ne (slotFrom_ne hj hkn)).trans (h.slots j hj).unbound
  record := by
    have hread : readDesc u.mem (txSlotAddr s.cfg (slotFrom s.eng.txC s.eng.n j)) =
        readDesc t.mem (txSlotAddr s.cfg (slotFrom s.eng.txC s.eng.n j)) := by
      unfold readDesc
      rw [readBytes_congr 16 _ (fun b hb => he.readByte_out ?_ ?_) (by decide)]
      · exact slot_apart_entry hp (slotFrom_lt hp j) hk hb
      · exact slots_apart hp (slotFrom_lt hp j) (slotFrom_lt hp k) (slotFrom_ne hj hkn) hb
    rw [← (h.slots j hj).record, State.txRecAt, State.txRecAt, he.outer.cfg, h.outer.cfg, hread]
  caller := by
    rw [← (h.slots j hj).caller, readBytes_congr 8 _ (fun b hb => he.readByte_out ?_ ?_) (by decide)]
    · exact entries_apart hp (by omega) hk (by omega) hb
    · exact fun hs => slot_apart_entry hp (slotFrom_lt hp k) (Nat.lt_trans hj hk) hs hb

/-- A bound slot whose descriptor is done is reclaimed. -/
theorem State.SlotEffect.reclaims (hb : t.slotFree (slotFrom s.eng.txC s.eng.n k) = false)
    (hd : txDone (t.txRecAt (slotFrom s.eng.txC s.eng.n k)) = true) : s.SlotReclaimed u k := by
  have hrec := h.txRecAt_next hp hkn (Nat.le_of_lt hk)
  have hap : ∀ b, inRange b (txSlotAddr s.cfg (slotFrom s.eng.txC s.eng.n k)) 16 → ¬ inRange b (entryAddr s.regs.arg0 8 k) 8 :=
    fun _ hb => slot_apart_entry hp (slotFrom_lt hp k) hk hb
  exact {
    bound := by
      rw [State.slotFree, ← h.txBinding_next hkn]
      exact hb
    done := hrec ▸ hd
    unbound := by
      rw [State.txBinding, he.eng]
      exact tableGet_set_same noTx h.tab _ _
    record := by
      rw [State.txRecAt, he.outer.cfg, h.outer.cfg, he.mem]
      refine decodeTx_reclaimMem h.mem hap ?_
      rw [← hrec, State.txRecAt, h.outer.cfg]
    caller := by
      rw [he.mem]
      exact leNat_reclaimMem h.mem hap (BitVec.isLt _) }

/-- One more slot, a bound one whose descriptor is done and which is the head at most at the first (41_transmit.md R159). -/
theorem State.Reclaimed.next (hb : t.slotFree (slotFrom s.eng.txC s.eng.n k) = false)
    (hd : txDone (t.txRecAt (slotFrom s.eng.txC s.eng.n k)) = true)
    (hhead : ¬ (slotFrom s.eng.txC s.eng.n k = s.nic.tdh.toNat ∧ 0 < k)) : s.Reclaimed (k + 1) u where
  outer := h.outer.trans he.outer
  count := hkn
  regs := by rw [he.regs, h.regs]
  eng := by
    rw [he.eng]
    conv_lhs => rw [h.eng]
  nic := he.nic.trans h.nic
  mapper := he.mapper.trans h.mapper
  mapCount := he.mapCount.trans h.mapCount
  mem := by
    rw [he.mem]
    exact writeBytes_wf _ (writeBytes_wf _ h.mem _) _
  tab := by
    rw [he.eng]
    exact tableSet_wf noTx h.tab _ _
  head := by
    intro j h0 hj
    rcases Nat.lt_succ_iff_lt_or_eq.mp hj with hj | rfl
    · exact h.head j h0 hj
    · exact fun hh => hhead ⟨hh, h0⟩
  slots := by
    intro j hj
    rcases Nat.lt_succ_iff_lt_or_eq.mp hj with hj | rfl
    · exact he.keeps hp hk hkn h hj
    · exact he.reclaims hp hk hkn h hb hd
  others := fun i hne => (he.txBinding_ne (hne k (Nat.lt_succ_self k))).trans
    (h.others i fun j hj => hne j (Nat.lt_succ_of_lt hj))
  maps := by
    rw [he.maps, h.maps, List.range_succ, List.foldl_append]
    rfl
  bytes := by
    intro b hb
    obtain ⟨harray, hslots⟩ := outside_reclaimRanges_iff.mp hb
    rw [he.readByte_out (fun hin => harray (inRange_of_entry hp (Nat.lt_succ_self k) hk hin)) (hslots k (Nat.lt_succ_self k))]
    exact h.bytes b (outside_reclaimRanges_iff.mpr ⟨fun ha => harray (Nat.lt_of_lt_of_le ha (by omega)),
      fun j hj => hslots j (Nat.lt_succ_of_lt hj)⟩)
  ports := by
    rw [he.ports, h.ports, List.range_succ, List.flatMap_append, List.reverse_append, List.flatMap_singleton, List.append_assoc]

end

/-! ### The walk -/

/-- R159's conditions to stop before the `k`-th slot is read, `t` being the state there. -/
def State.ReclaimStops (s : State) (cap k : Nat) (t : State) : Prop :=
  k = cap ∨ (0 < k ∧ slotFrom s.eng.txC s.eng.n k = s.nic.tdh.toNat) ∨ t.slotFree (slotFrom s.eng.txC s.eng.n k) = true

/-- TX.RECLAIM ends in `t` after `k` slots: at once, or after the read of a slot that is not done. -/
def State.ReclaimEnds (s : State) (cap k : Nat) (t : State) : Prop :=
  ∃ u ps, s.Reclaimed k u ∧ t = { u.finish .success with ports := ps } ∧
    ((s.ReclaimStops cap k u ∧ ps = u.ports) ∨
      (¬ s.ReclaimStops cap k u ∧ txDone (u.txRecAt (slotFrom s.eng.txC s.eng.n k)) = false ∧
        ps = .memRead (txSlotAddr s.cfg (slotFrom s.eng.txC s.eng.n k)) 16 :: u.ports))

/-- From any count on, the walk ends, in at most four steps a slot and one more. -/
theorem reclaimNext_ends {s : State} {cap : Nat} (hp : s.ReclaimReady cap) {l : Latch} (himm : l.imm = cap)
    (harg : l.arg0 = s.regs.arg0) : ∀ (n k : Nat) (t : State), k + n = cap → s.Reclaimed k t →
      ∃ j k' t', j ≤ 4 * n + 1 ∧ k' ≤ cap ∧ State.engineTurn^[j] (reclaimNext l s.nic.tdh k t) = t' ∧ s.ReclaimEnds cap k' t' := by
  intro n
  induction n with
  | zero =>
    intro k t hk h
    obtain ⟨_, e⟩ | ⟨hlt, _⟩ := reclaimNext_cases l t s.nic.tdh k
    · exact ⟨0, k, _, by omega, by omega, e, t, _, h, rfl, .inl ⟨.inl (by omega), rfl⟩⟩
    · omega
  | succ n ih =>
    intro k t hk h
    have hi := h.txC_toNat hp
    obtain ⟨hstop, e⟩ | ⟨_, hhead, hbound, e⟩ := reclaimNext_cases l t s.nic.tdh k
    · refine ⟨0, k, _, by omega, by omega, e, t, _, h, rfl, .inl ⟨?_, rfl⟩⟩
      rw [hi, himm] at hstop
      exact hstop.imp (fun hcap => by omega) (Or.imp_left And.symm)
    · have hkn := h.lt_of_bound hp hbound
      have hturn := reclaim_turn_not_done l s.nic.tdh k (t := t)
      have hiter := reclaim_iterate l s.nic.tdh k (t := t)
      rw [hi] at hhead hbound hturn hiter
      rw [h.outer.cfg] at hturn
      rw [harg] at hiter
      rw [e]
      cases hdone : txDone (t.txRecAt (slotFrom s.eng.txC s.eng.n k)) with
      | false =>
        refine ⟨1, k, _, by omega, by omega, hturn hdone, t, _, h, rfl, .inr ⟨?_, hdone, rfl⟩⟩
        rintro (h1 | h1 | h1)
        · omega
        · exact hhead h1.symm
        · exact absurd (hbound.symm.trans h1) (by decide)
      | true =>
        have hnext := h.next (h.slotEffect hp (by omega) hkn) hp (by omega) hkn hbound hdone hhead
        obtain ⟨j, k', t', hj, hk', hrun, hend⟩ := ih (k + 1) _ (by omega) hnext
        refine ⟨j + 4, k', t', by omega, hk', ?_, hend⟩
        rw [Function.iterate_add_apply, hiter hdone, hrun]

/-- TX.RECLAIM with legal operands and a legal head, apart from the rings, walks the completed slots to its end. -/
theorem exec_txReclaim_ends {s : State} {max : Half} (hr : s.Ready) (hc : s.Canonical) (hw : s.eng.hwInit = true)
    (hp : s.ReclaimReady max.toNat) (hlegal : s.ReclaimLegal max.toNat) (hn : s.nic.tdh.toNat < s.eng.n.toNat)
    (hspan : s.headInSpan s.nic.tdh.toNat = true) :
    ∃ k t, k ≤ max.toNat ∧ exec (.txReclaim max) s = .next t ∧ s.ReclaimEnds max.toNat k t := by
  obtain ⟨j, k, t, hj, hk, hrun, hend⟩ := reclaimNext_ends hp (latch_imm_txReclaim s max) rfl max.toNat 0 _ (Nat.zero_add _)
    (reclaimed_zero hc hp.cursor (encode (.txReclaim max)) (s.latch (encode (.txReclaim max))))
  refine ⟨k, t, hk, ?_, hend⟩
  have hidle : t.eng.seq = .idle := by
    obtain ⟨u, ps, _, rfl, _⟩ := hend
    rfl
  refine exec_ready hr rfl (fun _ => hw) (j + 1) (le_stepBound (by omega)) ?_ hidle
  change State.engineTurn^[j + 1] (reclaimStart _ _) = t
  rw [reclaimStart_legal hp.pos hlegal, Function.iterate_succ_apply, reclaimHead_turn _ (by exact hn) (by exact hspan)]
  exact hrun

/-- Settles O34: the walk keeps what the slots reclaimed so far left, and stops at the first of R159's conditions. -/
theorem txReclaimWalksTheCompletedSlots : Obligations.TxReclaimWalksTheCompletedSlots := by
  intro s max hr hc hring hw hmax hlegal hapart hn hspan
  have hup := hring.up hw
  have hp : s.ReclaimReady max.toNat := ⟨hmax, hr.cfg, hup.size.2, hup.txC, (hlegal hmax).2, hapart⟩
  obtain ⟨k, t, hk, hexec, u, ps, h, rfl, hps⟩ := exec_txReclaim_ends hr hc hw hp hlegal hn hspan
  refine ⟨_, k, hexec, ⟨h.outer.cfg, h.outer.inputs, h.outer.lockOther, h.outer.wire, h.outer.reads⟩, hk, ?_, ?_, h.nic, h.mapper,
    h.mapCount, h.head, ?_, h.others, ?_, h.maps, h.bytes, ?_⟩
  · change { u.regs with code := .success } = _
    rw [h.regs]
    rfl
  · change { u.eng with seq := .idle } = _
    conv_lhs => rw [h.eng]
    rw [← hr.idle]
    rfl
  · intro j hj
    exact ⟨(h.slots j hj).bound, (h.slots j hj).done, (h.slots j hj).unbound, (h.slots j hj).record, (h.slots j hj).caller⟩
  · obtain ⟨hstop | hstop | hstop, _⟩ | ⟨_, hdone, _⟩ := hps
    · exact .inl hstop
    · exact .inr (.inl hstop)
    · exact .inr (.inr (.inl hstop))
    · exact .inr (.inr (.inr hdone))
  · change ps = _
    obtain ⟨hstop, rfl⟩ | ⟨hgo, _, rfl⟩ := hps
    · split
      next => exact h.ports
      next hgo => exact absurd hstop hgo
    · split
      next hstop => exact absurd hstop hgo
      next => exact congrArg (List.cons _) h.ports

end Sys2Proof.Machine

end

/-! ## INIT and the ring indexes (40_ring.md R130, R133 to R138, R142)

INIT zeroes the transmit descriptors one by one and then maps and describes the receive buffers one by one. What the first `j` transmit
slots and the first `k` receive buffers leave is an invariant in terms of the state before the command; from it the register writes
lead to `Success`, and the undoing of the mappings to `InitFailure`. -/

section

namespace Sys2Proof.Machine

/-! ### Ring indexes -/

theorem adv_toNat {i n : Half} (h : i.toNat < n.toNat) : (adv i n).toNat = (i.toNat + 1) % n.toNat := by
  have hlt : (i.toNat + 1) % n.toNat < n.toNat := Nat.mod_lt _ (Nat.zero_lt_of_lt h)
  rw [adv, BitVec.toNat_ofNat, Nat.mod_eq_of_lt (hlt.trans n.isLt)]

/-- Settles O58: a remainder by `n` fits in 16 bits, and `n - 1` advances to the remainder of `n` itself. -/
theorem advanceWrapsAtTheRingSize : Obligations.AdvanceWrapsAtTheRingSize := by
  refine ⟨fun i n h => ⟨adv_toNat h, ?_⟩, fun n hn => ?_, by decide, by decide, by decide⟩
  · rw [adv_toNat h]
    exact Nat.mod_lt _ (Nat.zero_lt_of_lt h)
  · have hpred : (n - 1).toNat + 1 = n.toNat := by bv_omega
    rw [adv, hpred, Nat.mod_self]
    rfl

/-! ### What INIT checks before any action -/

theorem latch_imm_init (s : State) (n : Half) : (s.latch (encode (.init n))).imm = n.toNat :=
  congrArg BitVec.toNat (immField_cmdWord _ _ _ _)

theorem initRefused_eq_false_iff {s : State} (n : Half) :
    initRefused (s.latch (encode (.init n))) (s.startCmd (encode (.init n))) = false ↔ s.InitLegal n := by
  simp only [initRefused, Bool.or_eq_false_iff, decide_eq_false_iff_not, wraps_eq_false_iff, Nat.not_lt]
  rw [latch_imm_init, State.startCmd_cfg, State.startCmd_eng]
  constructor
  · rintro ⟨⟨⟨⟨⟨⟨⟨hfirst, hmin⟩, hmax⟩, hbuf⟩, hbufMax⟩, hpool⟩, hrange⟩, hapart⟩
    exact ⟨hfirst, ⟨hmin, hmax⟩, ⟨hbuf, hbufMax⟩, hpool, hrange, hapart⟩
  · rintro ⟨hfirst, ⟨hmin, hmax⟩, ⟨hbuf, hbufMax⟩, hpool, hrange, hapart⟩
    exact ⟨⟨⟨⟨⟨⟨⟨hfirst, hmin⟩, hmax⟩, hbuf⟩, hbufMax⟩, hpool⟩, hrange⟩, hapart⟩

/-- Settles O25: the decode step of INIT makes all the checks of R133, which are the model's `initRefused`. -/
theorem init_refused : Obligations.InitRefused := by
  intro s n hr hlegal
  exact exec_ended hr rfl (fun h => Bool.noConfusion h) .refused
    (if_pos (Bool.eq_true_of_not_eq_false (mt (initRefused_eq_false_iff n).mp hlegal)))

/-! ### Descriptors written one after the other -/

theorem readBytes_descWrite_same {m : List (Nat × Byte)} (h : memWf m = true) (a : Addr) (d : Desc) :
    readBytes (writeBytes m a (descBytes d)) a 16 = descBytes d := by
  have hback := readBytes_writeBytes (descBytes d) h a (by rw [descBytes_length]; decide)
  rwa [descBytes_length] at hback

theorem readDesc_of_readBytes {m : List (Nat × Byte)} {a : Addr} {d : Desc} (h : readBytes m a 16 = descBytes d) :
    readDesc m a = d := by
  rw [readDesc, h, descBytes, leNat_leBytes 16 _ d.isLt, BitVec.ofNat_toNat, BitVec.setWidth_eq]

/-- `m` is `m0` with the descriptors `ws` (address, value) written, none of them over another one. -/
structure DescsWritten (m0 : List (Nat × Byte)) (ws : List (Addr × Desc)) (m : List (Nat × Byte)) : Prop where
  wf : memWf m = true
  back : ∀ w ∈ ws, readBytes m w.1 16 = descBytes w.2
  out : ∀ b, (∀ w ∈ ws, ¬ inRange b w.1 16) → readByte m b = readByte m0 b

/-- One more descriptor, apart from those written. -/
theorem DescsWritten.write {m0 m : List (Nat × Byte)} {ws : List (Addr × Desc)} (h : DescsWritten m0 ws m) {a : Addr} (d : Desc)
    (hap : ∀ w ∈ ws, ∀ b, inRange b w.1 16 → ¬ inRange b a 16) :
    DescsWritten m0 (ws ++ [(a, d)]) (writeBytes m a (descBytes d)) where
  wf := writeBytes_wf _ h.wf a
  back := by
    intro w hw
    rcases List.mem_append.mp hw with hw | hw
    · rw [readBytes_writeBytes_out _ _ _ _ _ (by rw [descBytes_length]; exact hap w hw) (by decide), h.back w hw]
    · obtain rfl := List.mem_singleton.mp hw
      exact readBytes_descWrite_same h.wf a d
  out := by
    intro b hb
    have hlast : ¬ inRange b a 16 := hb (a, d) (List.mem_append_right ws (List.mem_singleton_self _))
    rw [readByte_writeBytes_out _ _ _ _ (by rwa [descBytes_length])]
    exact h.out b fun w hw => hb w (List.mem_append_left _ hw)

/-! ### Slots of the two rings (20_memory.md R66) -/

section
variable {base : Addr} {size : Nat} (hend : base.toNat + 16 * size ≤ 2 ^ 64)
include hend

theorem ringSlot_toNat {i : Nat} (hi : i < size) : (base + BitVec.ofNat 64 (16 * i)).toNat = base.toNat + 16 * i := by
  rw [BitVec.toNat_add, BitVec.toNat_ofNat, Nat.mod_eq_of_lt (by omega), Nat.mod_eq_of_lt (by omega)]

theorem ringSlots_apart {i j : Nat} (hi : i < size) (hj : j < size) (hij : i ≠ j) {b : Addr}
    (hb : inRange b (base + BitVec.ofNat 64 (16 * i)) 16) : ¬ inRange b (base + BitVec.ofNat 64 (16 * j)) 16 := by
  have hi' := ringSlot_toNat hend hi
  have hj' := ringSlot_toNat hend hj
  exact not_inRange_of_apart (by omega) (by omega) (by omega) hb

/-- The first slots of a ring are a range from its base on. -/
theorem inRange_of_ringSlot {i j : Nat} (hi : i < j) (hj : j ≤ size) {b : Addr}
    (hb : inRange b (base + BitVec.ofNat 64 (16 * i)) 16) : inRange b base (16 * j) := by
  have hi' := ringSlot_toNat hend (Nat.lt_of_lt_of_le hi hj)
  simp only [inRange, BitVec.toNat_sub] at hb ⊢
  have := b.isLt
  omega

end

/-- A transmit and a receive slot have no byte in common. -/
theorem txSlot_apart_rxSlot {c : Config} (hc : configWf c = true) {i j : Nat} (hi : i < c.nMax) (hj : j < c.nMax) {b : Addr}
    (hb : inRange b (txSlotAddr c i) 16) : ¬ inRange b (rxSlotAddr c j) 16 := by
  obtain ⟨-, -, htx, hrx, hmeet, -⟩ := configWf_spec hc
  have hi' : (txSlotAddr c i).toNat = _ := ringSlot_toNat htx hi
  have hj' : (rxSlotAddr c j).toNat = _ := ringSlot_toNat hrx hj
  have hapart : c.txRingBase.toNat + 16 * c.nMax ≤ c.rxRingBase.toNat ∨ c.rxRingBase.toNat + 16 * c.nMax ≤ c.txRingBase.toNat := by
    simp only [rangesMeet, Bool.and_eq_false_iff, decide_eq_false_iff_not] at hmeet
    omega
  exact not_inRange_of_apart (by omega) (by omega) (by omega) hb

/-! ### The receive buffers -/

/-- The address of receive buffer `i` (40_ring.md R135). -/
def State.bufVa (s : State) (i : Nat) : Addr := s.regs.arg0 + BitVec.ofNat 64 (i * s.regs.arg1.toNat)

/-- What INIT binds receive slot `i` to, by the mapper's answers from now on (R135; 20_memory.md R70). -/
def State.bufBinding (s : State) (i : Nat) : RxBinding := { da := dev (s.bufVa i) (s.answer i), va := s.bufVa i }

/-- The descriptor of receive slot `i` (R135). -/
def State.bufDesc (s : State) (i : Nat) : Desc := encodeRx s.cfg (rxInit (s.bufBinding i).da)

/-- The mapping of receive buffer `i`. -/
def State.bufMapping (s : State) (i : Nat) : Mapping :=
  { da := (s.bufBinding i).da, va := s.bufVa i, len := s.regs.arg1.toNat }

/-- The port actions of receive slot `i`, in their order (R135). -/
def State.bufPorts (s : State) (i : Nat) : List PortAction :=
  [.map (s.bufVa i) s.regs.arg1.toNat (s.answer i), .memWrite (rxSlotAddr s.cfg i) (descBytes (s.bufDesc i))]

theorem poolBuf_latch (s : State) (w : Word) (i : Nat) : poolBuf (s.latch w) i = s.bufVa i := rfl

/-- No buffer of a legal pool starts at 0 (R133). -/
theorem bufVa_ne_zero {s : State} {n : Half} (hl : s.InitLegal n) {i : Nat} (hi : i < n.toNat) : s.bufVa i ≠ 0 := by
  obtain ⟨-, -, hbuf, hpool, hrange, -⟩ := hl
  have hnext : (i + 1) * s.regs.arg1.toNat ≤ n.toNat * s.regs.arg1.toNat := Nat.mul_le_mul_right _ hi
  rw [Nat.add_one_mul] at hnext
  have hpos : 0 < s.regs.arg0.toNat := by
    have h0 : s.regs.arg0.toNat ≠ 0 := fun h => hpool (BitVec.eq_of_toNat_eq h)
    omega
  intro h
  have hzero : (s.bufVa i).toNat = 0 := by rw [h]; rfl
  rw [State.bufVa, BitVec.toNat_add, BitVec.toNat_ofNat, Nat.mod_eq_of_lt (by omega), Nat.mod_eq_of_lt (by omega)] at hzero
  omega

theorem dev_ne_zero {va : Addr} (hva : va ≠ 0) (a : MapAnswer) : dev va a ≠ 0 := by
  cases a with
  | fail => exact hva
  | ok d =>
    simp only [dev]
    split
    next => exact hva
    next h => exact h

/-! ### What INIT has built after its first transmit slots and receive buffers (R134, R135) -/

/-- The descriptors of the first `j` transmit slots and the first `k` receive slots, in the order of INIT's writes. -/
def State.initDescs (s : State) (j k : Nat) : List (Addr × Desc) :=
  (List.range j).map (fun i => (txSlotAddr s.cfg i, 0)) ++ (List.range k).map fun i => (rxSlotAddr s.cfg i, s.bufDesc i)

theorem forall_initDescs_iff {s : State} {j k : Nat} {P : Addr × Desc → Prop} : (∀ w ∈ s.initDescs j k, P w) ↔
    (∀ i, i < j → P (txSlotAddr s.cfg i, 0)) ∧ ∀ i, i < k → P (rxSlotAddr s.cfg i, s.bufDesc i) := by
  simp only [State.initDescs, List.forall_mem_append, List.forall_mem_map, List.mem_range]

/-- A zeroed descriptor as its 16 bytes (R134). -/
theorem descBytes_zero : descBytes 0 = List.replicate 16 0 := by decide

/-- The writes of the first `j` transmit descriptors, newest first. -/
def State.zeroPorts (s : State) (j : Nat) : List PortAction :=
  ((List.range j).map fun i => PortAction.memWrite (txSlotAddr s.cfg i) (List.replicate 16 0)).reverse

/-- `t` is `s` after a running INIT has zeroed the first `j` transmit slots and mapped and described the first `k` receive buffers. -/
structure State.RingsBuilt (s : State) (j k : Nat) (t : State) : Prop where
  outer : s.SameOuter t
  regs : t.regs = s.regs.ended s.regs.code
  eng : t.eng = { s.eng with seq := t.eng.seq, txTab := t.eng.txTab, rxTab := t.eng.rxTab }
  nic : t.nic = s.nic
  canonical : t.Canonical
  txBinding : ∀ i, t.txBinding i = if i < j then noTx else s.txBinding i
  rxBinding : ∀ i, t.rxBinding i = if i < k then s.bufBinding i else s.rxBinding i
  descs : DescsWritten s.mem (s.initDescs j k) t.mem
  mapper : t.mapper = s.mapper.drop k
  mapCount : t.mapCount = s.mapCount + k
  maps : t.maps = ((List.range k).map s.bufMapping).reverse ++ s.maps
  ports : t.ports = ((List.range k).flatMap s.bufPorts).reverse ++ s.zeroPorts j ++ s.ports

/-- At INIT's start nothing is built. -/
theorem ringsBuilt_zero {s : State} (hc : s.Canonical) (w : Word) : s.RingsBuilt 0 0 (s.startCmd w) where
  outer := ⟨rfl, rfl, rfl, rfl, rfl⟩
  regs := rfl
  eng := rfl
  nic := rfl
  canonical := (canonical_startCmd s w).mpr hc
  txBinding := fun _ => rfl
  rxBinding := fun _ => rfl
  descs := ⟨hc.mem, nofun, fun _ _ => rfl⟩
  mapper := rfl
  mapCount := rfl
  maps := rfl
  ports := rfl

/-- The entries below `k + 1` of a table after its entry `k` is written. -/
theorem tableGet_set_below {α : Type} [DecidableEq α] (d : α) {t : List (Nat × α)} (ht : tableWf d t = true) {k : Nat} {v : α}
    {new old : Nat → α} (h : ∀ i, tableGet d t i = if i < k then new i else old i) (hv : v = new k) (i : Nat) :
    tableGet d (tableSet d t k v) i = if i < k + 1 then new i else old i := by
  by_cases hi : i = k
  · rw [hi, tableGet_set_same d ht, hv, if_pos (Nat.lt_succ_self k)]
  · rw [tableGet_set_ne d hi, h]
    exact if_congr (by omega) rfl rfl

/-- The mapper's next answer after `k` of them are used up (10_state.md R24). -/
theorem State.RingsBuilt.mapAnswer {s t : State} {j k : Nat} (h : s.RingsBuilt j k t) : t.mapAnswer = s.answer k := by
  have hget : s.answer k = (s.mapper.drop k).head?.getD (Config.freeMapAnswer (s.mapCount + k)) := by
    rw [State.answer, List.head?_drop, List.getD_eq_getElem?_getD]
  rw [hget, ← h.mapper, ← h.mapCount, State.mapAnswer]
  cases t.mapper <;> rfl

/-- The effect of the step that zeroes transmit slot `i` (R134). -/
def State.zeroTxSlot (t : State) (i : Nat) : State :=
  (t.memWrite (txSlotAddr t.cfg i) (descBytes 0)).setTxBinding i noTx

/-- The effect of the two steps that map receive buffer `i` at `va` and describe it (R135). -/
def State.addBuf (t : State) (va : Addr) (len i : Nat) : State :=
  let b : RxBinding := { da := dev va t.mapAnswer, va := va }
  (((t.mapCall va len).addMapping b.da va len).setRxBinding i b).writeRxd i (rxInit b.da)

section
variable {s t : State} {j k : Nat}

theorem State.RingsBuilt.zeroTxSlot (h : s.RingsBuilt j 0 t) (hc : configWf s.cfg = true) (hj : j < s.cfg.nMax) :
    s.RingsBuilt (j + 1) 0 (t.zeroTxSlot j) where
  outer := h.outer.trans (by constructor <;> simp [State.zeroTxSlot])
  regs := by simp [State.zeroTxSlot, h.regs]
  eng := by
    simp only [State.zeroTxSlot, State.setTxBinding_eng, State.memWrite_eng]
    conv_lhs => rw [h.eng]
  nic := by simp [State.zeroTxSlot, h.nic]
  canonical := setTxBinding_canonical (memWrite_canonical h.canonical _ _) _ _
  txBinding := tableGet_set_below noTx (new := fun _ => noTx) h.canonical.tx h.txBinding rfl
  rxBinding := by
    intro i
    rw [← h.rxBinding]
    simp [State.rxBinding, State.zeroTxSlot]
  descs := by
    obtain ⟨-, -, htx, -⟩ := configWf_spec hc
    have hap : ∀ w ∈ s.initDescs j 0, ∀ b, inRange b w.1 16 → ¬ inRange b (txSlotAddr s.cfg j) 16 :=
      forall_initDescs_iff.mpr ⟨fun i hi b hb => ringSlots_apart htx (by omega) hj (by omega) hb, nofun⟩
    have hnext : s.initDescs (j + 1) 0 = s.initDescs j 0 ++ [(txSlotAddr s.cfg j, 0)] := by
      simp [State.initDescs, List.range_succ]
    simp only [State.zeroTxSlot, State.setTxBinding_mem, State.memWrite_mem, h.outer.cfg, hnext]
    exact h.descs.write 0 hap
  mapper := by simp [State.zeroTxSlot, h.mapper]
  mapCount := by simp [State.zeroTxSlot, h.mapCount]
  maps := by simp [State.zeroTxSlot, h.maps]
  ports := by
    simp only [State.zeroTxSlot, State.setTxBinding_ports, State.memWrite_ports, h.outer.cfg, h.ports, State.zeroPorts, List.range_succ,
      descBytes_zero]
    simp

theorem State.RingsBuilt.addBuf (h : s.RingsBuilt j k t) (hc : configWf s.cfg = true) (hj : j ≤ s.cfg.nMax) (hk : k < s.cfg.nMax) :
    s.RingsBuilt j (k + 1) (t.addBuf (s.bufVa k) s.regs.arg1.toNat k) := by
  have heffect : t.addBuf (s.bufVa k) s.regs.arg1.toNat k =
      (((t.mapCall (s.bufVa k) s.regs.arg1.toNat).addMapping (s.bufBinding k).da (s.bufVa k) s.regs.arg1.toNat).setRxBinding k
        (s.bufBinding k)).writeRxd k (rxInit (s.bufBinding k).da) := by
    simp only [State.addBuf, h.mapAnswer]
    rfl
  rw [heffect]
  exact {
    outer := h.outer.trans (by constructor <;> simp)
    regs := by simp [h.regs]
    eng := by
      simp only [State.writeRxd_eng, State.setRxBinding_eng, State.addMapping_eng, State.mapCall_eng]
      conv_lhs => rw [h.eng]
    nic := by simp [h.nic]
    canonical := memWrite_canonical (setRxBinding_canonical
      ((canonical_addMapping _ _ _ _).mpr ((canonical_mapCall _ _ _).mpr h.canonical)) _ _) _ _
    txBinding := h.txBinding
    rxBinding := tableGet_set_below noRx h.canonical.rx h.rxBinding rfl
    descs := by
      obtain ⟨-, -, -, hrx, -⟩ := configWf_spec hc
      have hap : ∀ w ∈ s.initDescs j k, ∀ b, inRange b w.1 16 → ¬ inRange b (rxSlotAddr s.cfg k) 16 :=
        forall_initDescs_iff.mpr ⟨fun i hi b hb => txSlot_apart_rxSlot hc (by omega) hk hb,
          fun i hi b hb => ringSlots_apart hrx (by omega) hk (by omega) hb⟩
      have hnext : s.initDescs j (k + 1) = s.initDescs j k ++ [(rxSlotAddr s.cfg k, s.bufDesc k)] := by
        simp [State.initDescs, List.range_succ]
      simp only [State.writeRxd_mem, State.setRxBinding_mem, State.setRxBinding_cfg, State.addMapping_mem, State.addMapping_cfg,
        State.mapCall_mem, State.mapCall_cfg, h.outer.cfg, hnext]
      exact h.descs.write _ hap
    mapper := by simp [h.mapper]
    mapCount := by simp [h.mapCount, Nat.add_assoc]
    maps := by
      simp [h.maps, List.range_succ, State.bufMapping]
    ports := by
      simp [h.ports, h.mapAnswer, h.outer.cfg, List.range_succ, State.bufPorts, State.bufDesc] }

end

section
variable {s t : State} {j k : Nat} (h : s.RingsBuilt j k t)
include h

theorem State.RingsBuilt.txDesc {i : Nat} (hi : i < j) : readDesc t.mem (txSlotAddr s.cfg i) = 0 :=
  readDesc_of_readBytes ((forall_initDescs_iff.mp h.descs.back).1 i hi)

theorem State.RingsBuilt.rxBytes {i : Nat} (hi : i < k) : readBytes t.mem (rxSlotAddr s.cfg i) 16 = descBytes (s.bufDesc i) :=
  (forall_initDescs_iff.mp h.descs.back).2 i hi

theorem State.RingsBuilt.rxRec {i : Nat} (hi : i < k) :
    decodeRx s.cfg (readDesc t.mem (rxSlotAddr s.cfg i)) = rxInit (s.bufBinding i).da := by
  rw [readDesc_of_readBytes (h.rxBytes hi)]
  exact decodeRx_encodeRx_rxInit _ _

/-- Nothing outside the descriptors written so far has changed (R134, R135). -/
theorem State.RingsBuilt.bytes (hc : configWf s.cfg = true) (hj : j ≤ s.cfg.nMax) (hk : k ≤ s.cfg.nMax) :
    s.SameBytesBut t [(s.cfg.txRingBase, 16 * j), (s.cfg.rxRingBase, 16 * k)] := by
  intro b hb
  obtain ⟨hbtx, hbrx, -⟩ : ¬ inRange b s.cfg.txRingBase (16 * j) ∧ ¬ inRange b s.cfg.rxRingBase (16 * k) ∧ _ := by
    simpa only [List.forall_mem_cons] using hb
  obtain ⟨-, -, htx, hrx, -⟩ := configWf_spec hc
  exact h.descs.out b (forall_initDescs_iff.mpr
    ⟨fun i hi hin => hbtx (inRange_of_ringSlot htx hi hj hin), fun i hi hin => hbrx (inRange_of_ringSlot hrx hi hk hin)⟩)

/-- The recorded port actions of the receive buffers, with the bytes as they stand in memory. -/
theorem State.RingsBuilt.bufPorts_eq : (List.range k).flatMap s.bufPorts = (List.range k).flatMap fun i =>
    [.map (s.bufVa i) s.regs.arg1.toNat (s.answer i), .memWrite (rxSlotAddr s.cfg i) (readBytes t.mem (rxSlotAddr s.cfg i) 16)] := by
  refine List.flatMap_congr fun i hi => ?_
  rw [h.rxBytes (List.mem_range.mp hi)]
  rfl

end

/-! ### The engine's steps (R133 to R135) -/

theorem zeroTxSlot_turn (l : Latch) (t : State) (i : Nat) : (t.goto l (.init (.txSlot i))).engineTurn =
    (t.zeroTxSlot i).goto l (if i + 1 < l.imm then .init (.txSlot (i + 1)) else .init (.mapBuf 0)) := rfl

/-- A buffer that the mapper maps is described in two steps (R135). -/
theorem addBuf_iterate (l : Latch) {t : State} (hc : t.Canonical) {i : Nat} (hok : t.mapAnswer ≠ .fail) :
    State.engineTurn^[2] (t.goto l (.init (.mapBuf i))) = (t.addBuf (poolBuf l i) l.arg1.toNat i).goto l
      (if i + 1 < l.imm then .init (.mapBuf (i + 1)) else .init (.program 0)) := by
  have hdescribe (u : State) : (u.goto l (.init (.rxSlot i))).engineTurn = (u.writeRxd i (rxInit (u.rxBinding i).da)).goto l
      (if i + 1 < l.imm then .init (.mapBuf (i + 1)) else .init (.program 0)) := rfl
  obtain ⟨hfail, -⟩ | ⟨hfail, -⟩ | ⟨d, hd, hmap⟩ := initMapBuf_cases l (t.goto l (.init (.mapBuf i))) i
  · exact absurd hfail hok
  · exact absurd hfail hok
  · replace hd : t.mapAnswer = .ok d := hd
    replace hmap : (t.goto l (.init (.mapBuf i))).engineTurn =
        (((t.mapCall (poolBuf l i) l.arg1.toNat).addMapping (dev (poolBuf l i) (.ok d)) (poolBuf l i) l.arg1.toNat).setRxBinding i
          { da := dev (poolBuf l i) (.ok d), va := poolBuf l i }).goto l (.init (.rxSlot i)) := hmap
    rw [Function.iterate_succ_apply, hmap, Function.iterate_one, hdescribe, State.addBuf, hd, State.rxBinding, State.setRxBinding_eng,
      tableGet_set_same noRx (by exact hc.rx)]

section
variable {s : State} {n : Half} (hr : s.Ready) (hc : s.Canonical) (hl : s.InitLegal n) {l : Latch}
  (hlatch : l = s.latch (encode (.init n)))
include hr hc hl hlatch

/-- INIT with legal operands zeroes the transmit slots one after the other (R134). -/
theorem init_zeroes (j : Nat) (hj : j ≤ n.toNat) :
    ∃ t, State.engineTurn^[j] (initStart l (s.startCmd (encode (.init n)))) =
      t.goto l (if j < l.imm then .init (.txSlot j) else .init (.mapBuf 0)) ∧ s.RingsBuilt j 0 t := by
  have himm : l.imm = n.toNat := hlatch ▸ latch_imm_init s n
  obtain ⟨hmin, hmax⟩ := hl.size
  have hstart : initStart l (s.startCmd (encode (.init n))) = (s.startCmd (encode (.init n))).goto l (.init (.txSlot 0)) :=
    if_neg (ne_true_of_eq_false (hlatch ▸ (initRefused_eq_false_iff n).mpr hl))
  induction j with
  | zero => exact ⟨_, by rw [himm, if_pos (by omega)]; exact hstart, ringsBuilt_zero hc _⟩
  | succ j ih =>
    obtain ⟨t, e, h⟩ := ih (by omega)
    refine ⟨_, ?_, h.zeroTxSlot hr.cfg (by omega)⟩
    rw [Function.iterate_succ_apply', e, if_pos (by omega), zeroTxSlot_turn]

/-- Then it describes the first `k` buffers, when the mapper maps these (R135). -/
theorem init_builds (k : Nat) (hk : k ≤ n.toNat) (hok : ∀ i, i < k → s.answer i ≠ .fail) :
    ∃ t, State.engineTurn^[2 * k + n.toNat] (initStart l (s.startCmd (encode (.init n)))) =
      t.goto l (if k < n.toNat then .init (.mapBuf k) else .init (.program 0)) ∧ s.RingsBuilt n.toNat k t := by
  have himm : l.imm = n.toNat := hlatch ▸ latch_imm_init s n
  obtain ⟨hmin, hmax⟩ := hl.size
  induction k with
  | zero =>
    obtain ⟨t, e, h⟩ := init_zeroes hr hc hl hlatch n.toNat (le_refl _)
    refine ⟨t, ?_, h⟩
    rw [himm, if_neg (Nat.lt_irrefl _)] at e
    rw [if_pos (by omega), ← e, Nat.mul_zero, Nat.zero_add]
  | succ k ih =>
    obtain ⟨t, e, h⟩ := ih (by omega) fun i hi => hok i (by omega)
    refine ⟨_, ?_, h.addBuf hr.cfg hmax (by omega)⟩
    rw [show 2 * (k + 1) + n.toNat = 2 + (2 * k + n.toNat) by omega, Function.iterate_add_apply, e, if_pos (by omega),
      addBuf_iterate l h.canonical (h.mapAnswer ▸ hok k (by omega)), himm, hlatch, poolBuf_latch]
    rfl

end

/-! ### The register writes (R137) -/

/-- The NIC after the register writes `ws`. -/
def Nic.afterWrites (d : Nic) (ws : List (NicReg × Word)) : Nic := ws.foldl (fun d w => nicWrite d w.1 w.2) d

/-- `t` after the first register writes `ws` of `programNic`, of which the very first clears the interrupt mask. -/
def State.afterWrites (t : State) (ws : List (NicReg × Word)) : State :=
  { t with
    eng := { t.eng with intMask := 0 }
    nic := t.nic.afterWrites ws
    ports := (ws.map fun w => PortAction.regWrite (regOffset t.cfg w.1) w.2).reverse ++ t.ports }

theorem afterWrites_regWrite (t : State) (ws : List (NicReg × Word)) (r : NicReg) (v : Word) :
    (t.afterWrites ws).regWrite r v = t.afterWrites (ws ++ [(r, v)]) := by
  simp [State.afterWrites, Nic.afterWrites, State.regWrite, State.setNic, State.note]

/-- The NIC after `programNic(n)`. -/
theorem afterWrites_programList (c : Config) (n : Nat) (d : Nic) : d.afterWrites (programList c n) = { d with
    ims := 0
    tdbal := c.txRingBase.extractLsb' 0 32
    tdbah := c.txRingBase.extractLsb' 32 32
    tdlen := BitVec.ofNat 32 (16 * n)
    tdh := 0
    tdt := 0
    rdbal := c.rxRingBase.extractLsb' 0 32
    rdbah := c.rxRingBase.extractLsb' 32 32
    rdlen := BitVec.ofNat 32 (16 * n)
    rdh := 0
    rdt := BitVec.ofNat 32 (n - 1) } := by
  have hims : d.ims &&& ~~~(0xFFFFFFFF#32) = 0 := BitVec.and_zero
  simp only [Nic.afterWrites, programList, List.foldl_cons, List.foldl_nil, nicWrite, hims]

/-- The register writes after the first one, each a turn of the engine; the last one ends INIT. -/
theorem program_turn (l : Latch) (t : State) {ws : List (NicReg × Word)} {k : Nat} {w : NicReg × Word} (hk : k ≠ 0)
    (hw : (programList t.cfg l.imm)[k]? = some w) :
    ((t.afterWrites ws).goto l (.init (.program k))).engineTurn =
      if k + 1 < 11 then (t.afterWrites (ws ++ [w])).goto l (.init (.program (k + 1)))
      else initDone l (t.afterWrites (ws ++ [w])) := by
  rw [← afterWrites_regWrite]
  obtain ⟨hnone, -⟩ | ⟨r, v, _, hrv, rfl, h⟩ := initProgram_cases l ((t.afterWrites ws).goto l (.init (.program k))) k
  · exact absurd (hw.symm.trans hnone) nofun
  · obtain rfl := Option.some.inj (hw.symm.trans hrv)
    rw [if_neg hk] at h
    obtain ⟨hlt, e⟩ | ⟨hge, e⟩ := h
    · rw [if_pos hlt]
      exact e
    · rw [if_neg hge]
      exact e

theorem program_iterate (l : Latch) (t : State) : ∀ k, k < 10 → State.engineTurn^[k + 1] (t.goto l (.init (.program 0))) =
    (t.afterWrites ((programList t.cfg l.imm).take (k + 1))).goto l (.init (.program (k + 1)))
  | 0, _ => rfl
  | k + 1, hk => by
    have hlen : k + 1 < (programList t.cfg l.imm).length := by change k + 1 < 11; omega
    have hw := List.getElem?_eq_getElem hlen
    rw [Function.iterate_succ_apply', program_iterate l t k (by omega), program_turn l t (Nat.succ_ne_zero k) hw, if_pos (by omega),
      List.take_add_one (i := k + 1), hw]
    rfl

/-- The eleven register writes end INIT (R133, R137). -/
theorem program_iterate_done (l : Latch) (t : State) : State.engineTurn^[11] (t.goto l (.init (.program 0))) =
    initDone l (t.afterWrites (programList t.cfg l.imm)) := by
  rw [Function.iterate_succ_apply', program_iterate l t 9 (by decide), program_turn l t (by decide) rfl, if_neg (by decide)]
  rfl

/-! ### The undoing of the mappings (R136) -/

/-- INIT fails with the first `k` buffers mapped: it undoes them, the last one first. -/
def State.undoFrom (t : State) (l : Latch) : Nat → State
  | 0 => t.finish .initFailure
  | k + 1 => t.goto l (.init (.undo k))

/-- The port actions that undo the first `k` buffers, newest first. -/
def State.undoPorts (s : State) (k : Nat) : List PortAction :=
  (List.range k).map fun i => .unmap (s.bufBinding i).da s.regs.arg1.toNat

theorem undo_turn (l : Latch) (t : State) (k : Nat) : (t.undoFrom l (k + 1)).engineTurn =
    ((t.unmap (t.rxBinding k).da l.arg1.toNat).setRxBinding k noRx).undoFrom l k := by
  cases k <;> rfl

/-- A failed mapping, whatever is mapped before it. -/
theorem failedMap_turn (l : Latch) {t : State} (k : Nat) (hfail : t.mapAnswer = .fail) :
    (t.goto l (.init (.mapBuf k))).engineTurn = (t.mapCall (poolBuf l k) l.arg1.toNat).undoFrom l k := by
  obtain ⟨-, rfl, e⟩ | ⟨-, hk, e⟩ | ⟨d, hd, -⟩ := initMapBuf_cases l (t.goto l (.init (.mapBuf k))) k
  · exact e
  · obtain ⟨k, rfl⟩ := Nat.exists_eq_succ_of_ne_zero hk
    exact e
  · exact absurd (hfail.symm.trans hd) nofun

/-- `t` after a failed INIT has left `ms` mapped, the receive bindings `tab` and the port actions `ps`. -/
def State.undone (t : State) (ms : List Mapping) (tab : List (Nat × RxBinding)) (ps : List PortAction) : State :=
  { t.finish .initFailure with eng := { t.eng with seq := .idle, rxTab := tab }, maps := ms, ports := ps }

/-- The undo takes away the mappings and bindings of the first `k` buffers, and nothing else. -/
theorem undo_iterate {s : State} (w : Word) : ∀ (k : Nat) (t : State), tableWf noRx t.eng.rxTab = true →
    (∀ i, i < k → t.rxBinding i = s.bufBinding i) → t.maps = ((List.range k).map s.bufMapping).reverse ++ s.maps →
    ∃ tab, State.engineTurn^[k] (t.undoFrom (s.latch w) k) = t.undone s.maps tab (s.undoPorts k ++ t.ports) ∧
      ∀ i, tableGet noRx tab i = if i < k then noRx else t.rxBinding i
  | 0, t, _, _, hmaps => ⟨t.eng.rxTab, by rw [← (show t.maps = s.maps from hmaps)]; rfl, fun _ => rfl⟩
  | k + 1, t, hwf, hbind, hmaps => by
    have hlast : t.rxBinding k = s.bufBinding k := hbind k (Nat.lt_succ_self k)
    have hdrop : dropMapping (s.bufBinding k).da s.regs.arg1.toNat t.maps = ((List.range k).map s.bufMapping).reverse ++ s.maps := by
      rw [hmaps, List.range_succ, List.map_append, List.reverse_append]
      exact if_pos ⟨rfl, rfl⟩
    obtain ⟨tab, e, htab⟩ := undo_iterate w k ((t.unmap (t.rxBinding k).da s.regs.arg1.toNat).setRxBinding k noRx)
      (tableSet_wf noRx hwf k noRx) (fun i hi => (tableGet_set_ne noRx (by omega) noRx _).trans (hbind i (by omega)))
      (by rw [hlast]; exact hdrop)
    refine ⟨tab, ?_, fun i => ?_⟩
    · rw [Function.iterate_succ_apply, undo_turn]
      refine e.trans ?_
      rw [hlast, State.undoPorts, State.undoPorts, List.range_succ, List.map_append, List.append_assoc]
      rfl
    · rw [htab]
      by_cases hi : i = k
      · rw [hi, if_neg (Nat.lt_irrefl k), if_pos (Nat.lt_succ_self k)]
        exact tableGet_set_same noRx hwf k noRx
      · exact if_congr (by omega) rfl (tableGet_set_ne noRx hi noRx _)

/-! ### INIT as a whole -/

section
variable {s : State} {n : Half} (hr : s.Ready) (hc : s.Canonical) (hl : s.InitLegal n)
include hr hc hl

/-- When every buffer is mapped, all are built and the register writes end the command (R133 to R137). -/
theorem exec_init_success (hok : ∀ i, i < n.toNat → s.answer i ≠ .fail) : ∃ t, s.RingsBuilt n.toNat n.toNat t ∧
    exec (.init n) s = .next (initDone (s.latch (encode (.init n))) (t.afterWrites (programList s.cfg n.toNat))) := by
  have hn : n.toNat < 2 ^ 16 := n.isLt
  obtain ⟨t, e, h⟩ := init_builds hr hc hl rfl n.toNat (le_refl _) hok
  rw [if_neg (Nat.lt_irrefl _)] at e
  refine ⟨t, h, exec_ready hr rfl (fun h => Bool.noConfusion h) (11 + (2 * n.toNat + n.toNat)) (le_stepBound (by omega)) ?_ rfl⟩
  rw [Function.iterate_add_apply]
  exact (congrArg _ e).trans ((program_iterate_done _ t).trans (by rw [h.outer.cfg, latch_imm_init]))

/-- When buffer `i` is the first that is not mapped, those before it are built and then undone (R136). -/
theorem exec_init_failure {i : Nat} (hi : i < n.toNat) (hfail : s.answer i = .fail) (hok : ∀ j, j < i → s.answer j ≠ .fail) :
    ∃ t tab, s.RingsBuilt n.toNat i t ∧ (∀ j, tableGet noRx tab j = if j < i then noRx else t.rxBinding j) ∧
      exec (.init n) s = .next ((t.mapCall (s.bufVa i) s.regs.arg1.toNat).undone s.maps tab
        (s.undoPorts i ++ (t.mapCall (s.bufVa i) s.regs.arg1.toNat).ports)) := by
  have hn : n.toNat < 2 ^ 16 := n.isLt
  obtain ⟨t, e, h⟩ := init_builds hr hc hl rfl i (by omega) hok
  rw [if_pos hi] at e
  obtain ⟨tab, hundo, htab⟩ := undo_iterate (encode (.init n)) i (t.mapCall (s.bufVa i) s.regs.arg1.toNat) h.canonical.rx
    (fun j hj => (h.rxBinding j).trans (if_pos hj)) h.maps
  refine ⟨t, tab, h, htab, exec_ready hr rfl (fun h => Bool.noConfusion h) (i + (1 + (2 * i + n.toNat)))
    (le_stepBound (by omega)) ?_ rfl⟩
  rw [Function.iterate_add_apply, Function.iterate_add_apply]
  refine (congrArg _ (congrArg _ e)).trans ?_
  rw [Function.iterate_one, failedMap_turn _ i (h.mapAnswer.trans hfail)]
  exact hundo

end

/-- Settles O23: all the buffers are built, and the register writes end the command. -/
theorem initSetsUpTheRings : Obligations.InitSetsUpTheRings := by
  intro s n hr hc hl hok
  obtain ⟨-, hmax⟩ := hl.size
  obtain ⟨t, h, hexec⟩ := exec_init_success hr hc hl hok
  have hword : immField (s.latch (encode (.init n))).word = n := immField_cmdWord _ _ _ _
  have hbind : ∀ i, i < n.toNat → t.rxBinding i = s.bufBinding i := fun i hi => (h.rxBinding i).trans (if_pos hi)
  refine ⟨_, hexec, ⟨h.outer.cfg, h.outer.inputs, h.outer.lockOther, h.outer.wire, h.outer.reads⟩, ?_, ?_, h.txBinding,
    fun i hi => (h.rxBinding i).trans (if_neg (by omega)), ?_, h.bytes hr.cfg hmax hmax, ?_, h.mapper, h.mapCount, ?_, ?_⟩
  · change { t.regs with code := .success } = _
    rw [h.regs]
    rfl
  · change { t.eng with
      intMask := 0, n := immField (s.latch (encode (.init n))).word, b := s.regs.arg1, txW := 0, txC := 0, rxC := 0, hwInit := true,
      seq := .idle } = _
    rw [hword]
    conv_lhs => rw [h.eng]
    rw [← hr.idle]
    rfl
  · intro i hi
    obtain ⟨d, hd⟩ : ∃ d, s.answer i = .ok d := by
      cases ha : s.answer i with
      | ok d => exact ⟨d, rfl⟩
      | fail => exact absurd ha (hok i hi)
    have hda : (s.bufBinding i).da = if d = 0 then s.bufVa i else d := congrArg (dev (s.bufVa i)) hd
    refine ⟨d, hd, ?_, ?_, ?_, h.txDesc hi, ?_, ?_⟩
    · exact congrArg RxBinding.va (hbind i hi)
    · change (t.rxBinding i).da = if d = 0 then (t.rxBinding i).va else d
      rw [hbind i hi]
      exact hda
    · change (t.rxBinding i).da ≠ 0
      rw [hbind i hi]
      exact dev_ne_zero (bufVa_ne_zero hl hi) _
    · change (decodeTx s.cfg (readDesc t.mem (txSlotAddr s.cfg i))).sta.getLsbD 0 = false
      rw [h.txDesc hi, ← and_staDd_ne_zero, txDone_zero]
      rfl
    · change _ = rxInit (t.rxBinding i).da
      rw [hbind i hi]
      exact h.rxRec hi
  · exact (afterWrites_programList s.cfg n.toNat t.nic).trans (by rw [h.nic])
  · refine h.maps.trans (congrArg (fun ms => List.reverse ms ++ s.maps) (List.map_congr_left fun i hi => ?_))
    change _ = Mapping.mk (t.rxBinding i).da (t.rxBinding i).va _
    rw [hbind i (List.mem_range.mp hi)]
    rfl
  · change _ ++ t.ports = _
    rw [h.ports, h.bufPorts_eq, h.outer.cfg]
    simp only [List.append_assoc]
    rfl

/-- Settles O24: the buffers before the failed one are built, and the undo takes their mappings and bindings away. -/
theorem initMappingFailureIsUndone : Obligations.InitMappingFailureIsUndone := by
  intro s n i hr hc hl hi hfail hok
  obtain ⟨-, hmax⟩ := hl.size
  obtain ⟨t, tab, h, htab, hexec⟩ := exec_init_failure hr hc hl hi hfail hok
  refine ⟨_, hexec, ⟨h.outer.cfg, h.outer.inputs, h.outer.lockOther, h.outer.wire, h.outer.reads⟩, ?_, h.nic, rfl, ?_, h.txBinding,
    ?_, fun j hj => h.txDesc hj, ?_, h.bytes hr.cfg hmax (by omega), ?_, ?_, ?_⟩
  · change { t.regs with code := .initFailure } = _
    rw [h.regs]
    rfl
  · change { t.eng with seq := .idle, rxTab := tab } = _
    conv_lhs => rw [h.eng]
    rw [← hr.idle]
    rfl
  · intro j
    refine (htab j).trans ?_
    split
    next => rfl
    next hj => exact (h.rxBinding j).trans (if_neg hj)
  · intro j d hj hd
    refine (congrArg RxRec.addr (h.rxRec hj)).trans ?_
    exact congrArg (dev (s.bufVa j)) hd
  · change t.mapper.tail = _
    rw [h.mapper, List.tail_drop]
  · change t.mapCount + 1 = _
    rw [h.mapCount]
  · change s.undoPorts i ++ .map (s.bufVa i) s.regs.arg1.toNat t.mapAnswer :: t.ports = _
    rw [h.mapAnswer, hfail, h.ports, h.bufPorts_eq]
    rfl

end Sys2Proof.Machine

end

/-! ## The transmit commands: their frame and the corrupt head (41_transmit.md R158, R166)

Most steps of a transmit command store nothing and move no cursor; the others are the two descriptor writes, the tail write, the output
write and the clearing write. -/

section

namespace Sys2Proof.Machine

/-! ### The corrupt head (R158) -/

/-- A head in the span is one of the slots from the cleanup cursor to the write cursor. -/
theorem exists_of_inSpan {n h c w : Nat} (hh : h < n) (hc : c < n) (hspan : inSpan n h c w = true) :
    ∃ j, j ≤ (w + n - c) % n ∧ h = (c + j) % n := by
  refine ⟨(h + n - c) % n, of_decide_eq_true hspan, ?_⟩
  rw [Nat.add_mod_mod, show c + (h + n - c) = h + n by omega, Nat.add_mod_right, Nat.mod_eq_of_lt hh]

/-- A head outside the span does not pass, unless every slot is bound. -/
theorem headInSpan_eq_false {s : State} {h : Nat} (hh : h < s.eng.n.toNat) (hc : s.eng.txC.toNat < s.eng.n.toNat)
    (hout : ¬ ∃ j, j ≤ (s.eng.txW.toNat + s.eng.n.toNat - s.eng.txC.toNat) % s.eng.n.toNat ∧
      h = (s.eng.txC.toNat + j) % s.eng.n.toNat)
    (hfull : s.eng.txW = s.eng.txC → s.slotFree s.eng.txW.toNat = true) : s.headInSpan h = false := by
  refine Bool.or_eq_false_iff.mpr ⟨Bool.eq_false_of_not_eq_true fun hspan => hout (exists_of_inSpan hh hc hspan), ?_⟩
  rw [Bool.and_eq_false_imp, decide_eq_true_eq]
  exact fun heq => congrArg not (hfull heq)

/-- `s` after a TX.RECLAIM that found the head corrupt with cause `c`. -/
def State.headFault (s : State) (c : FaultCause) : State := { s.endedWith .faulted with
  eng := { s.eng with fault := true, faultCause := c }
  ports := .regRead s.cfg.oTdh s.nic.tdh :: s.ports }

/-- A TX.RECLAIM with legal operands whose read of the head raises the fault ends with it, and with nothing else. -/
theorem exec_txReclaim_fault {s : State} {max : Half} (hr : s.Ready) (hw : s.eng.hwInit = true) (hmax : 0 < max.toNat)
    (hlegal : s.ReclaimLegal max.toNat) (c : FaultCause)
    (h : ∀ (l : Latch) (t : State), t.eng.n = s.eng.n → t.regVal .tdh = s.nic.tdh → t.headInSpan = s.headInSpan →
      reclaimHead l t = (t.regRead .tdh).raiseFault c) :
    exec (.txReclaim max) s = .next (s.headFault c) := by
  refine exec_ready hr rfl (fun _ => hw) 1 (le_stepBound (by decide)) ?_ hr.idle
  change (reclaimStart _ _).engineTurn = _
  rw [reclaimStart_legal hmax hlegal, engineTurn_goto]
  refine (h _ ((s.startCmd (encode (.txReclaim max))).goto (s.latch (encode (.txReclaim max))) (.reclaim .head)) rfl rfl rfl).trans ?_
  have heng : { s.eng with fault := true, faultCause := c, seq := Seq.idle } =
      { s.eng with fault := true, faultCause := c } := by rw [← hr.idle]
  exact congrArg (fun e => { s.headFault c with eng := e }) heng

/-- Settles O33: the head check comes before any slot is looked at, and it fails on just these heads. -/
theorem corruptHeadRaisesTheFault : Obligations.CorruptHeadRaisesTheFault := by
  intro s max hr hring hw hmax hlegal
  refine ⟨fun hn => ?_, fun hn hout hfull => ?_⟩
  · refine exec_txReclaim_fault hr hw hmax hlegal .headOutOfRange fun l t htn hth _ => ?_
    obtain ⟨_, e⟩ | ⟨hlt, _⟩ | ⟨hlt, _⟩ := reclaimHead_cases l t
    · exact e
    all_goals
      rw [htn, hth] at hlt
      omega
  · refine exec_txReclaim_fault hr hw hmax hlegal .headOutsideWindow fun l t htn hth hspan => ?_
    obtain ⟨hge, _⟩ | ⟨_, hin, _⟩ | ⟨_, _, e⟩ := reclaimHead_cases l t
    · rw [htn, hth] at hge
      omega
    · rw [hspan, hth, headInSpan_eq_false hn (hring.up hw).txC hout hfull] at hin
      cases hin
    · exact e

/-! ### What every step of a transmit command leaves (R166) -/

/-- The block and the NIC of `t` are those of `s` but for the sequencer, the transmit cursors, each at most one slot on, the transmit
bindings, the lock, the fault, the transmit tail, `RES2` and the status code. -/
structure State.TransmitFrame (s t : State) : Prop where
  eng : t.eng = { s.eng with
    seq := t.eng.seq
    txW := t.eng.txW
    txC := t.eng.txC
    txTab := t.eng.txTab
    lockHeld := t.eng.lockHeld
    fault := t.eng.fault
    faultCause := t.eng.faultCause }
  nic : t.nic = { s.nic with tdt := t.nic.tdt }
  regs : t.regs = { s.regs with res2 := t.regs.res2, code := t.regs.code }
  txW : t.eng.txW = s.eng.txW ∨ t.eng.txW = adv s.eng.txW s.eng.n
  txC : t.eng.txC = s.eng.txC ∨ t.eng.txC = adv s.eng.txC s.eng.n

/-- `t` is `s` after an operation that also leaves the cursors, the tail and memory. -/
structure State.TransmitQuiet (s t : State) : Prop where
  frame : s.TransmitFrame t
  tdt : t.nic.tdt = s.nic.tdt
  mem : t.mem = s.mem

/-- The positions of TX.SEND and TX.SENDF that store a descriptor or write the tail. -/
def TxPoint.quiet : TxPoint → Bool
  | .sendWrite _ => false
  | .fragWrite _ _ => false
  | .tail _ => false
  | _ => true

/-- The positions of TX.RECLAIM that store to memory. -/
def ReclaimPoint.quiet : ReclaimPoint → Bool
  | .output _ _ _ => false
  | .clear _ _ _ => false
  | _ => true

section
variable {s t : State}

theorem State.TransmitFrame.goto (h : s.TransmitFrame t) (l : Latch) (p : Point) : s.TransmitFrame (t.goto l p) where
  eng := by
    conv_lhs => rw [State.goto_eng, h.eng]
    rfl
  nic := h.nic
  regs := h.regs
  txW := h.txW
  txC := h.txC

theorem State.TransmitFrame.finish (h : s.TransmitFrame t) (c : Status) : s.TransmitFrame (t.finish c) where
  eng := by
    conv_lhs => rw [State.finish_eng, h.eng]
    rfl
  nic := h.nic
  regs := by
    conv_lhs => rw [State.finish_regs, h.regs]
    rfl
  txW := h.txW
  txC := h.txC

theorem State.TransmitQuiet.goto (h : s.TransmitQuiet t) (l : Latch) (p : Point) : s.TransmitQuiet (t.goto l p) :=
  ⟨h.frame.goto l p, h.tdt, h.mem⟩

theorem State.TransmitQuiet.finish (h : s.TransmitQuiet t) (c : Status) : s.TransmitQuiet (t.finish c) :=
  ⟨h.frame.finish c, h.tdt, h.mem⟩

end

section
variable {l : Latch} {s : State}

theorem refl_quiet : s.TransmitQuiet s := ⟨⟨rfl, rfl, rfl, .inl rfl, .inl rfl⟩, rfl, rfl⟩
theorem note_quiet (a : PortAction) : s.TransmitQuiet (s.note a) := ⟨⟨rfl, rfl, rfl, .inl rfl, .inl rfl⟩, rfl, rfl⟩
theorem mapTx_quiet (va : Addr) (n : Nat) : s.TransmitQuiet (s.mapTx va n) := ⟨⟨rfl, rfl, rfl, .inl rfl, .inl rfl⟩, rfl, rfl⟩
theorem unmap_quiet (da : Addr) (n : Nat) : s.TransmitQuiet (s.unmap da n) := ⟨⟨rfl, rfl, rfl, .inl rfl, .inl rfl⟩, rfl, rfl⟩
theorem acquire_quiet : s.TransmitQuiet s.acquire := ⟨⟨rfl, rfl, rfl, .inl rfl, .inl rfl⟩, rfl, rfl⟩
theorem release_quiet : s.TransmitQuiet s.release := ⟨⟨rfl, rfl, rfl, .inl rfl, .inl rfl⟩, rfl, rfl⟩
theorem raiseFault_quiet (a : PortAction) (c : FaultCause) : s.TransmitQuiet ((s.note a).raiseFault c) :=
  ⟨⟨rfl, rfl, rfl, .inl rfl, .inl rfl⟩, rfl, rfl⟩

theorem acquireOrWait_quiet (p : Point) : s.TransmitQuiet (acquireOrWait l p s) := by
  obtain ⟨_, e⟩ | ⟨_, e⟩ := acquireOrWait_cases l s p <;> rw [e]
  · exact refl_quiet
  · exact acquire_quiet.goto l p

theorem fragsRead_quiet {t : State} (h : s.TransmitQuiet t) (es : List (Option Frag)) : s.TransmitQuiet (fragsRead l es t) := by
  obtain ⟨_, e⟩ | ⟨_, _, _, _, e⟩ | ⟨_, _, _, _, e⟩ := fragsRead_cases l t es <;> rw [e]
  · exact h.finish .refused
  · exact h.goto l _
  · exact h.finish .busy

theorem reclaimNext_frame {t : State} (h : s.TransmitFrame t) (v : Word) (k : Nat) : s.TransmitFrame (reclaimNext l v k t) := by
  obtain ⟨_, e⟩ | ⟨_, _, _, e⟩ := reclaimNext_cases l t v k <;> rw [e]
  · exact h.finish .success
  · exact h.goto l _

theorem reclaimNext_quiet {t : State} (h : s.TransmitQuiet t) (v : Word) (k : Nat) : s.TransmitQuiet (reclaimNext l v k t) := by
  obtain ⟨_, e⟩ | ⟨_, _, _, e⟩ := reclaimNext_cases l t v k <;> rw [e]
  · exact h.finish .success
  · exact h.goto l _

theorem txStep_quiet {q : TxPoint} (hq : q.quiet = true) : s.TransmitQuiet (txStep l q s) := by
  cases q with
  | sendMap => exact (mapTx_quiet _ _).goto l _
  | sendAcquire da => exact acquireOrWait_quiet _
  | sendWrite da => cases hq
  | fragRead acc =>
    simp only [txStep]
    obtain ⟨_, e⟩ | ⟨_, e⟩ := fragRead_cases l s acc _ _ rfl rfl <;> rw [e]
    · exact (note_quiet _).goto l _
    · exact fragsRead_quiet (note_quiet _) _
  | fragMap f todo done => exact (mapTx_quiet _ _).goto l _
  | fragAcquire f rest => exact acquireOrWait_quiet _
  | fragWrite f rest => cases hq
  | tail slot => cases hq
  | unlock slot =>
    simp only [txStep]
    obtain ⟨_, e⟩ | ⟨_, _, e⟩ | ⟨_, _, e⟩ := txUnlock_cases l s slot <;> rw [e]
    · exact release_quiet.finish .success
    · exact release_quiet.goto l _
    · exact release_quiet.finish .deviceFailure
  | waitRead slot k =>
    simp only [txStep]
    obtain ⟨_, e⟩ | ⟨_, _, e⟩ | ⟨_, _, e⟩ := waitRead_cases l s slot k _ rfl <;> rw [e]
    · exact (note_quiet _).finish .success
    · exact (note_quiet _).goto l _
    · exact (note_quiet _).finish .deviceFailure
  | waitDelay slot k => exact (note_quiet _).goto l _

theorem reclaimStep_quiet {q : ReclaimPoint} (hq : q.quiet = true) : s.TransmitQuiet (reclaimStep l q s) := by
  cases q with
  | head =>
    simp only [reclaimStep]
    obtain ⟨_, e⟩ | ⟨_, _, e⟩ | ⟨_, _, e⟩ := reclaimHead_cases l s <;> rw [e]
    · exact raiseFault_quiet _ .headOutOfRange
    · exact reclaimNext_quiet (note_quiet _) _ 0
    · exact raiseFault_quiet _ .headOutsideWindow
  | read h k =>
    simp only [reclaimStep, reclaimRead]
    split
    · exact (note_quiet _).goto l _
    · exact (note_quiet _).finish .success
  | unmap h k d => exact (unmap_quiet _ _).goto l _
  | output h k d => cases hq
  | clear h k d => cases hq

/-! ### The steps that store or hand over (R149, R150, R160) -/

theorem pushDesc_frame (va : Addr) (len : Half) (da : Addr) (cmd : Byte) (tag : Half) :
    s.TransmitFrame (pushDesc s va len da cmd tag) := ⟨rfl, rfl, rfl, .inr rfl, .inl rfl⟩

theorem clearSlot_frame (k : Nat) (d : TxRec) : s.TransmitFrame (s.clearSlot k d) := ⟨rfl, rfl, rfl, .inl rfl, .inr rfl⟩

theorem txStep_frame (q : TxPoint) : s.TransmitFrame (txStep l q s) := by
  cases hq : q.quiet with
  | true => exact (txStep_quiet hq).frame
  | false =>
    cases q with
    | sendWrite da => exact (pushDesc_frame _ _ _ _ _).goto l _
    | fragWrite f rest => exact (pushDesc_frame _ _ _ _ _).goto l _
    | tail slot => exact ⟨rfl, rfl, rfl, .inl rfl, .inl rfl⟩
    | _ => cases hq

theorem reclaimStep_frame (q : ReclaimPoint) : s.TransmitFrame (reclaimStep l q s) := by
  cases hq : q.quiet with
  | true => exact (reclaimStep_quiet hq).frame
  | false =>
    cases q with
    | output h k d => exact ⟨rfl, rfl, rfl, .inl rfl, .inl rfl⟩
    | clear h k d => exact reclaimNext_frame (clearSlot_frame k d) h (k + 1)
    | _ => cases hq

/-- A state whose memory is `s`'s with some bytes written is the same elsewhere. -/
theorem sameBytesBut_of_writeBytes {t : State} {a : Addr} {bs : List Byte} {n : Nat} (hm : t.mem = writeBytes s.mem a bs)
    (hn : bs.length = n) : s.SameBytesBut t [(a, n)] := by
  intro b hb
  rw [hm]
  exact readByte_writeBytes_out bs s.mem a b (hn ▸ hb (a, n) (List.mem_singleton_self _))

theorem sameBytesBut_of_mem {t : State} (hm : t.mem = s.mem) (ranges : List (Addr × Nat)) : s.SameBytesBut t ranges :=
  fun b _ => congrArg (readByte · b) hm

theorem State.SameBytesBut.goto {t : State} {ranges : List (Addr × Nat)} (h : s.SameBytesBut t ranges) (l : Latch) (p : Point) :
    s.SameBytesBut (t.goto l p) ranges := h

theorem pushDesc_mem (va : Addr) (len : Half) (da : Addr) (cmd : Byte) (tag : Half) : (pushDesc s va len da cmd tag).mem =
    writeBytes s.mem (txSlotAddr s.cfg s.eng.txW.toNat) (descBytes (encodeTx s.cfg (txDesc da len cmd tag))) := by
  simp [pushDesc]

theorem pushDesc_bytes (va : Addr) (len : Half) (da : Addr) (cmd : Byte) (tag : Half) :
    s.SameBytesBut (pushDesc s va len da cmd tag) [(txSlotAddr s.cfg s.eng.txW.toNat, 16)] :=
  sameBytesBut_of_writeBytes (pushDesc_mem ..) (descBytes_length _)

theorem sendWrite_bytes (da : Addr) : s.SameBytesBut (sendWrite l da s) [(txSlotAddr s.cfg s.eng.txW.toNat, 16)] :=
  (pushDesc_bytes l.arg0 l.arg1Lo da (txCmd true l.f1) l.tag).goto l _

theorem fragWrite_bytes (f : MappedFrag) (rest : List MappedFrag) :
    s.SameBytesBut (fragWrite l f rest s) [(txSlotAddr s.cfg s.eng.txW.toNat, 16)] :=
  (pushDesc_bytes f.va f.len f.da (txCmd rest.isEmpty l.f1) l.tag).goto l _

theorem reclaimOutput_bytes (h : Word) (k : Nat) (d : TxRec) :
    s.SameBytesBut (reclaimOutput l h k d s) [(entryAddr l.arg0 8 k, 8)] :=
  sameBytesBut_of_writeBytes (bs := leBytes 8 (s.txBinding s.eng.txC.toNat).va.toNat) rfl (leBytes_length 8 _)

/-- What the clearing write leaves; going on to the next slot stores nothing. -/
theorem reclaimClear_rest (h : Word) (k : Nat) (d : TxRec) :
    (s.clearSlot k d).TransmitQuiet (reclaimClear l h k d s) := reclaimNext_quiet refl_quiet h (k + 1)

theorem reclaimClear_bytes (h : Word) (k : Nat) (d : TxRec) : s.SameBytesBut (reclaimClear l h k d s)
    [((staWrite s.cfg s.eng.txC.toNat d (d.sta &&& ~~~staDd)).1, (staWrite s.cfg s.eng.txC.toNat d (d.sta &&& ~~~staDd)).2.length)] :=
  sameBytesBut_of_writeBytes (reclaimClear_rest h k d).mem rfl

end

/-- Settles O49: the positions that store nothing and hand nothing over, then the other five. -/
theorem transmitStepsFrame : Obligations.TransmitStepsFrame := by
  rintro l p s t (⟨q, rfl⟩ | ⟨q, rfl⟩) rfl
  · have ho := engineStep_outer l s (.tx q)
    have hf : s.TransmitFrame (engineStep l (.tx q) s) := txStep_frame q
    cases hq : q.quiet with
    | true =>
      have h : s.TransmitQuiet (engineStep l (.tx q) s) := txStep_quiet hq
      exact ⟨ho, hf.eng, hf.nic, hf.regs, .inl h.tdt, hf.txW, hf.txC, sameBytesBut_of_mem h.mem _, fun _ _ _ _ => h.mem⟩
    | false =>
      cases q with
      | sendWrite da =>
        exact ⟨ho, hf.eng, hf.nic, hf.regs, .inl rfl, hf.txW, hf.txC, sendWrite_bytes da, fun h _ _ _ => absurd rfl (h da)⟩
      | fragWrite f rest =>
        exact ⟨ho, hf.eng, hf.nic, hf.regs, .inl rfl, hf.txW, hf.txC, fragWrite_bytes f rest, fun _ h _ _ => absurd rfl (h f rest)⟩
      | tail slot =>
        exact ⟨ho, hf.eng, hf.nic, hf.regs, .inr ⟨slot, rfl⟩, hf.txW, hf.txC, sameBytesBut_of_mem rfl _, fun _ _ _ _ => rfl⟩
      | _ => cases hq
  · have ho := engineStep_outer l s (.reclaim q)
    have hf : s.TransmitFrame (engineStep l (.reclaim q) s) := reclaimStep_frame q
    cases hq : q.quiet with
    | true =>
      have h : s.TransmitQuiet (engineStep l (.reclaim q) s) := reclaimStep_quiet hq
      exact ⟨ho, hf.eng, hf.nic, hf.regs, .inl h.tdt, hf.txW, hf.txC, sameBytesBut_of_mem h.mem _, fun _ _ _ _ => h.mem⟩
    | false =>
      cases q with
      | output h k d =>
        exact ⟨ho, hf.eng, hf.nic, hf.regs, .inl rfl, hf.txW, hf.txC, reclaimOutput_bytes h k d,
          fun _ _ hne _ => absurd rfl (hne h k d)⟩
      | clear h k d =>
        exact ⟨ho, hf.eng, hf.nic, hf.regs, .inl (reclaimClear_rest h k d).tdt, hf.txW, hf.txC, reclaimClear_bytes h k d,
          fun _ _ _ hne => absurd rfl (hne h k d)⟩
      | _ => cases hq

end Sys2Proof.Machine

end

/-! ## TX.SEND, and how a transmit hands its descriptors over (41_transmit.md R145 to R151)

From the tail write on, TX.SEND and TX.SENDF take the same steps: the tail, the release of the lock, and the wait when it is asked for.
When the NIC takes no step the descriptor waited for is never done, so the wait makes all its reads. -/

section

namespace Sys2Proof.Machine

/-! ### Reads with a delay between them (00_scope.md R14) -/

/-- One more read, before the others. -/
theorem pollPorts_append (read : PortAction) (us : Nat) (ps : List PortAction) : ∀ n,
    pollPorts read us (n + 1) ++ .delay us :: read :: ps = pollPorts read us (n + 2) ++ ps
  | 0 => rfl
  | n + 1 => congrArg (fun qs => read :: .delay us :: qs) (pollPorts_append read us ps n)

theorem countP_pollPorts (p : PortAction → Bool) (read : PortAction) (us : Nat) : ∀ n,
    (pollPorts read us n).countP p = (if p read then n else 0) + (if p (.delay us) then n - 1 else 0)
  | 0 => by simp [pollPorts]
  | 1 => by simp [pollPorts]
  | n + 2 => by
    rw [pollPorts, List.countP_cons, List.countP_cons, countP_pollPorts p read us (n + 1)]
    split <;> split <;> omega

theorem mem_pollPorts {read a : PortAction} {us : Nat} : ∀ {n}, a ∈ pollPorts read us n → a = read ∨ a = .delay us
  | 0, h => nomatch h
  | 1, h => .inl (List.mem_singleton.mp h)
  | n + 2, h => by
    rcases List.mem_cons.mp h with h | h
    · exact .inl h
    · rcases List.mem_cons.mp h with h | h
      · exact .inr h
      · exact mem_pollPorts h

/-! ### The wait for the done bit (R151) -/

/-- What `waitDone(slot)` leaves in the record of port actions when the done bit never comes. -/
def State.waitPorts (t : State) (slot : Half) : List PortAction :=
  pollPorts (.memRead (txSlotAddr t.cfg slot.toNat) 16) t.cfg.txPollUs t.cfg.txPollCount

/-- From any of its reads on, the wait for a descriptor that is not done makes the reads that are left and ends the command. -/
theorem wait_iterate (l : Latch) (slot : Half) (n k : Nat) (t : State) (hnot : txDone (t.txRecAt slot.toNat) = false)
    (hk : k + (n + 1) = t.cfg.txPollCount) : State.engineTurn^[2 * n + 1] (t.goto l (.tx (.waitRead slot k))) =
      { t.finish .deviceFailure with
        ports := pollPorts (.memRead (txSlotAddr t.cfg slot.toNat) 16) t.cfg.txPollUs (n + 1) ++ t.ports } := by
  induction n generalizing k t with
  | zero =>
    obtain ⟨hdone, _⟩ | ⟨_, hlt, _⟩ | ⟨_, _, e⟩ := waitRead_cases l (t.goto l (.tx (.waitRead slot k))) slot k _ rfl
    · exact absurd (hnot.symm.trans hdone) (by decide)
    · change k + 1 < t.cfg.txPollCount at hlt
      omega
    · exact e
  | succ n ih =>
    obtain ⟨hdone, _⟩ | ⟨_, _, e⟩ | ⟨_, hge, _⟩ := waitRead_cases l (t.goto l (.tx (.waitRead slot k))) slot k _ rfl
    · exact absurd (hnot.symm.trans hdone) (by decide)
    · have hread : (t.goto l (.tx (.waitRead slot k))).engineTurn =
          (t.memRead (txSlotAddr t.cfg slot.toNat) 16).goto l (.tx (.waitDelay slot k)) := e
      have hdelay (u : State) : (u.goto l (.tx (.waitDelay slot k))).engineTurn =
          (u.delay u.cfg.txPollUs).goto l (.tx (.waitRead slot (k + 1))) := rfl
      rw [show 2 * (n + 1) + 1 = 2 * n + 1 + 1 + 1 by omega, Function.iterate_succ_apply, hread, Function.iterate_succ_apply, hdelay,
        ih (k + 1) _ (by exact hnot) (by simpa using by omega), ← pollPorts_append]
      rfl
    · change ¬ k + 1 < t.cfg.txPollCount at hge
      omega

/-! ### The handing over (R150, R151) -/

/-- `t` after the tail write and the release of the lock, and after the wait when it is asked for and the done bit of `slot` never
comes. -/
def State.handOver (t : State) (block : Bool) (slot : Half) : State :=
  { t with
    eng := { t.eng with seq := .idle, lockHeld := false }
    nic := { t.nic with tdt := t.eng.txW.setWidth 32 }
    regs := { t.regs with code := if block then .deviceFailure else .success }
    ports := (if block then t.waitPorts slot else []) ++ .release :: .regWrite t.cfg.oTdt (t.eng.txW.setWidth 32) :: t.ports }

section
variable (t : State) (block : Bool) (slot : Half)

@[simp] theorem handOver_eng : (t.handOver block slot).eng = { t.eng with seq := .idle, lockHeld := false } := rfl
@[simp] theorem handOver_regs : (t.handOver block slot).regs =
    { t.regs with code := if block then .deviceFailure else .success } := rfl
@[simp] theorem handOver_nic : (t.handOver block slot).nic = { t.nic with tdt := t.eng.txW.setWidth 32 } := rfl
@[simp] theorem handOver_mem : (t.handOver block slot).mem = t.mem := rfl
@[simp] theorem handOver_maps : (t.handOver block slot).maps = t.maps := rfl
@[simp] theorem handOver_txBinding (i : Nat) : (t.handOver block slot).txBinding i = t.txBinding i := rfl
@[simp] theorem handOver_txRecAt (i : Nat) : (t.handOver block slot).txRecAt i = t.txRecAt i := rfl
@[simp] theorem handOver_ports : (t.handOver block slot).ports = (if block then t.waitPorts slot else []) ++
    .release :: .regWrite t.cfg.oTdt (t.eng.txW.setWidth 32) :: t.ports := rfl

theorem State.SameBytesBut.handOver {s t : State} {ranges : List (Addr × Nat)} (h : s.SameBytesBut t ranges) (block : Bool)
    (slot : Half) : s.SameBytesBut (t.handOver block slot) ranges := h

theorem handOver_outer : t.SameOuter (t.handOver block slot) := ⟨rfl, rfl, rfl, rfl, rfl⟩

end

/-- `t` after the tail write. -/
def State.tailWritten (t : State) : State := t.regWrite .tdt (t.eng.txW.setWidth 32)

/-- When the done bit of `slot` does not come, the steps from the tail write on hand the descriptors over. -/
theorem handOver_iterate (l : Latch) {slot : Half} {t : State} (hnot : txDone (t.txRecAt slot.toNat) = false) :
    ∃ k, k ≤ 2 + 2 * t.cfg.txPollCount ∧ State.engineTurn^[k] (t.goto l (.tx (.tail slot))) = t.handOver l.f0 slot := by
  have htail : (t.goto l (.tx (.tail slot))).engineTurn = t.tailWritten.goto l (.tx (.unlock slot)) := rfl
  obtain ⟨h0, e⟩ | ⟨h0, hpos, e⟩ | ⟨h0, hzero, e⟩ := txUnlock_cases l (t.tailWritten.goto l (.tx (.unlock slot))) slot
  · refine ⟨2, by omega, ?_⟩
    rw [Function.iterate_succ_apply, htail, h0]
    exact e
  · obtain ⟨n, hn⟩ : ∃ n, t.cfg.txPollCount = n + 1 := Nat.exists_eq_add_one.mpr hpos
    refine ⟨2 * n + 1 + 1 + 1, by omega, ?_⟩
    have hunlock : (t.tailWritten.goto l (.tx (.unlock slot))).engineTurn = t.tailWritten.release.goto l (.tx (.waitRead slot 0)) := e
    rw [Function.iterate_succ_apply, htail, Function.iterate_succ_apply, hunlock,
      wait_iterate l slot n 0 t.tailWritten.release (by exact hnot) (by rw [Nat.zero_add]; exact hn.symm), h0,
      State.handOver, State.waitPorts, hn]
    rfl
  · refine ⟨2, by omega, ?_⟩
    rw [Function.iterate_succ_apply, htail, h0, State.handOver, State.waitPorts, show t.cfg.txPollCount = 0 from hzero]
    exact e

/-! ### One descriptor (R148, R149) -/

section
variable (t : State) (va : Addr) (len : Half) (da : Addr) (last vle : Bool) (tag : Half)

theorem pushDesc_txBinding_same (ht : tableWf noTx t.eng.txTab = true) (cmd : Byte) :
    (pushDesc t va len da cmd tag).txBinding t.eng.txW.toNat = { bind := da, va := va, len := len } := by
  rw [State.txBinding, pushDesc]
  exact tableGet_set_same noTx ht _ _

theorem pushDesc_txBinding_ne (cmd : Byte) {i : Nat} (hi : i ≠ t.eng.txW.toNat) :
    (pushDesc t va len da cmd tag).txBinding i = t.txBinding i := by
  rw [State.txBinding, pushDesc]
  exact tableGet_set_ne noTx hi _ _

/-- The descriptor written for a buffer reads back. -/
theorem pushDesc_txRecAt (ht : memWf t.mem = true) :
    (pushDesc t va len da (txCmd last vle) tag).txRecAt t.eng.txW.toNat = txDesc da len (txCmd last vle) tag := by
  have hcfg : (pushDesc t va len da (txCmd last vle) tag).cfg = t.cfg := by simp [pushDesc]
  rw [State.txRecAt, hcfg, pushDesc_mem, readDesc_writeBytes ht, decodeTx_encodeTx_txDesc]

end

/-! ### TX.SEND as a whole -/

/-- The mapper's next answer after `k` of those of `s` are used up (10_state.md R24). -/
theorem mapAnswer_of_drop {s t : State} {k : Nat} (hm : t.mapper = s.mapper.drop k) (hc : t.mapCount = s.mapCount + k) :
    t.mapAnswer = s.answer k := by
  rw [State.answer, List.getD_eq_getElem?_getD, ← List.head?_drop, ← hm, ← hc, State.mapAnswer]
  cases t.mapper <;> rfl

theorem mapAnswer_startCmd (s : State) (w : Word) : (s.startCmd w).mapAnswer = s.answer 0 :=
  mapAnswer_of_drop (t := s.startCmd w) rfl rfl

/-- `stepBound` is enough for the wait for a done bit and the constant's worth of other steps. -/
theorem le_stepBound_wait {c : Config} {n : Nat} (h : n ≤ 524288 + 2 * c.txPollCount) : n ≤ stepBound c := by
  unfold stepBound
  omega

/-- `s` with word `w` of a TX.SEND started, after the map and the lock. -/
def State.sendLocked (s : State) (w : Word) : State := ((s.startCmd w).mapTx s.regs.arg0 (lowHalf s.regs.arg1).toNat).acquire

/-- The same after the descriptor write. -/
def State.sendPushed (s : State) (w : Word) (vle : Bool) : State :=
  pushDesc (s.sendLocked w) s.regs.arg0 (lowHalf s.regs.arg1) (dev s.regs.arg0 (s.answer 0)) (txCmd true vle)
    (if vle then lowHalf s.regs.arg2 else 0)

section
variable {s : State} (w : Word) (vle : Bool)

theorem sendLocked_maps : (s.sendLocked w).maps =
    { da := dev s.regs.arg0 (s.answer 0), va := s.regs.arg0, len := (lowHalf s.regs.arg1).toNat } :: s.maps := by
  simp [State.sendLocked, mapAnswer_startCmd]

theorem sendLocked_ports : (s.sendLocked w).ports =
    .acquire :: .map s.regs.arg0 (lowHalf s.regs.arg1).toNat (s.answer 0) :: s.ports := by
  simp [State.sendLocked, mapAnswer_startCmd]

theorem sendPushed_outer : s.SameOuter (s.sendPushed w vle) := by
  constructor <;> simp [State.sendPushed, State.sendLocked, pushDesc]

theorem sendPushed_eng : (s.sendPushed w vle).eng = { s.eng with
    seq := (s.sendPushed w vle).eng.seq
    lockHeld := true
    txTab := (s.sendPushed w vle).eng.txTab
    txW := adv s.eng.txW s.eng.n } := rfl

theorem sendPushed_maps : (s.sendPushed w vle).maps = (s.sendLocked w).maps := by simp [State.sendPushed, pushDesc]

theorem sendPushed_txBinding_ne {i : Nat} (hi : i ≠ s.eng.txW.toNat) : (s.sendPushed w vle).txBinding i = s.txBinding i :=
  pushDesc_txBinding_ne (s.sendLocked w) _ _ _ _ _ hi

theorem sendPushed_bytes : s.SameBytesBut (s.sendPushed w vle) [(txSlotAddr s.cfg s.eng.txW.toNat, 16)] :=
  pushDesc_bytes (s := s.sendLocked w) _ _ _ _ _

variable (hc : s.Canonical)
include hc

theorem sendPushed_txBinding : (s.sendPushed w vle).txBinding s.eng.txW.toNat =
    { bind := dev s.regs.arg0 (s.answer 0), va := s.regs.arg0, len := lowHalf s.regs.arg1 } :=
  pushDesc_txBinding_same (s.sendLocked w) _ _ _ _ hc.tx _

theorem sendPushed_txRecAt : (s.sendPushed w vle).txRecAt s.eng.txW.toNat =
    txDesc (dev s.regs.arg0 (s.answer 0)) (lowHalf s.regs.arg1) (txCmd true vle) (if vle then lowHalf s.regs.arg2 else 0) :=
  pushDesc_txRecAt (s.sendLocked w) _ _ _ _ _ _ hc.mem

/-- The descriptor write as the record of port actions has it: the bytes that stand in memory after it. -/
theorem sendPushed_ports : (s.sendPushed w vle).ports = .memWrite (txSlotAddr s.cfg s.eng.txW.toNat)
    (readBytes (s.sendPushed w vle).mem (txSlotAddr s.cfg s.eng.txW.toNat) 16) :: (s.sendLocked w).ports := by
  have hback : readBytes (s.sendPushed w vle).mem (txSlotAddr s.cfg s.eng.txW.toNat) 16 = descBytes (encodeTx s.cfg
      (txDesc (dev s.regs.arg0 (s.answer 0)) (lowHalf s.regs.arg1) (txCmd true vle) (if vle then lowHalf s.regs.arg2 else 0))) := by
    rw [State.sendPushed, pushDesc_mem]
    exact readBytes_descWrite_same hc.mem _ _
  rw [hback, State.sendPushed, pushDesc]
  simp [State.sendLocked]

end

/-- A descriptor that the engine has just written is not done (R149). -/
theorem txDone_txDesc (da : Addr) (len : Half) (cmd : Byte) (tag : Half) : txDone (txDesc da len cmd tag) = false :=
  (by decide : (((0 : Byte) &&& staDd) != 0) = false)

/-- TX.SEND with legal operands and a free slot makes its descriptor write and hands the descriptor over. -/
theorem exec_txSend {s : State} {block vle : Bool} (hr : s.Ready) (hc : s.Canonical) (hw : s.eng.hwInit = true)
    (hlegal : s.SendLegal vle) (hfree : s.slotFree s.eng.txW.toNat = true) : exec (.txSend block vle) s =
      .next ((s.sendPushed (encode (.txSend block vle)) vle).handOver block s.eng.txW) := by
  generalize hl : s.latch (encode (.txSend block vle)) = l
  have h0 : l.f0 = block := hl ▸ f0Field_cmdWord _ _ _ _
  have h1 : l.f1 = vle := hl ▸ f1Field_cmdWord _ _ _ _
  have htag : l.tag = if vle then lowHalf s.regs.arg2 else 0 := by rw [Latch.tag, h1, ← hl]; rfl
  have hstart : sendStart l (s.startCmd (encode (.txSend block vle))) =
      (s.startCmd (encode (.txSend block vle))).goto l (.tx .sendMap) := by
    rw [← hl]
    exact (if_neg (ne_true_of_eq_false ((sendRefused_eq_false_iff block vle).mpr hlegal))).trans (if_pos hfree)
  have hmap (u : State) : (u.goto l (.tx .sendMap)).engineTurn =
      (u.mapTx l.arg0 l.arg1Lo.toNat).goto l (.tx (.sendAcquire (dev l.arg0 u.mapAnswer))) := rfl
  have hacquire (u : State) (da : Addr) (hu : u.lockOther = false) : (u.goto l (.tx (.sendAcquire da))).engineTurn =
      u.acquire.goto l (.tx (.sendWrite da)) := if_neg (ne_true_of_eq_false hu)
  have hwrite (u : State) (da : Addr) : (u.goto l (.tx (.sendWrite da))).engineTurn =
      (pushDesc u l.arg0 l.arg1Lo da (txCmd true l.f1) l.tag).goto l (.tx (.tail u.eng.txW)) := rfl
  have hnot : txDone ((s.sendPushed (encode (.txSend block vle)) vle).txRecAt s.eng.txW.toNat) = false := by
    rw [sendPushed_txRecAt _ _ hc, txDone_txDesc]
  obtain ⟨k, hk, e⟩ := handOver_iterate l hnot
  rw [h0] at e
  refine exec_ready hr rfl (fun _ => hw) (k + 1 + 1 + 1) (le_stepBound_wait ?_) ?_ rfl
  · change k ≤ 2 + 2 * s.cfg.txPollCount at hk
    omega
  · rw [hl]
    change State.engineTurn^[k + 1 + 1 + 1] (sendStart _ _) = _
    rw [hstart, Function.iterate_succ_apply, hmap, Function.iterate_succ_apply, hacquire _ _ (by exact hr.lock),
      Function.iterate_succ_apply, hwrite, mapAnswer_startCmd, h1, htag]
    subst hl
    exact e

/-- What the wait of a blocking transmit leaves in the record of port actions: its reads, and a delay between each two (R151). -/
theorem waits_spec (t : State) (block : Bool) (slot : Half) (waits : List PortAction)
    (hw : waits = if block then t.waitPorts slot else []) :
    waits.countP (fun a => a.isMemRead) = (if block then t.cfg.txPollCount else 0) ∧
      waits.countP (fun a => a.isDelay) = (if block then t.cfg.txPollCount - 1 else 0) ∧
      waits.all (fun a => a.isMemRead || a.isDelay) = true := by
  subst hw
  cases block with
  | false => exact ⟨rfl, rfl, rfl⟩
  | true =>
    refine ⟨(countP_pollPorts _ _ _ _).trans (Nat.add_zero _), (countP_pollPorts _ _ _ _).trans (Nat.zero_add _), ?_⟩
    rw [List.all_eq_true]
    intro a ha
    rcases mem_pollPorts ha with rfl | rfl <;> rfl

/-- A read of `waitDone`, as one case distinction on its done bit and on the reads that are left (R151). -/
theorem waitRead_eq (l : Latch) (slot : Half) (k : Nat) (s : State) : waitRead l slot k s = { s with
    eng := { s.eng with
      seq := if (s.txRecAt slot.toNat).sta.getLsbD 0 = false ∧ k + 1 < s.cfg.txPollCount
        then .running l (.tx (.waitDelay slot k)) else .idle }
    regs := { s.regs with
      code := if (s.txRecAt slot.toNat).sta.getLsbD 0 then .success
        else if k + 1 < s.cfg.txPollCount then s.regs.code else .deviceFailure }
    ports := .memRead (txSlotAddr s.cfg slot.toNat) 16 :: s.ports } := by
  have hdd : txDone (s.txRecAt slot.toNat) = (s.txRecAt slot.toNat).sta.getLsbD 0 := and_staDd_ne_zero _
  obtain ⟨h, e⟩ | ⟨h, hk, e⟩ | ⟨h, hk, e⟩ := waitRead_cases l s slot k _ rfl <;> rw [hdd] at h <;> rw [e, h]
  · rw [if_neg (by simp), if_pos rfl]
    rfl
  · rw [if_pos ⟨rfl, hk⟩, if_neg (by simp), if_pos hk]
    rfl
  · rw [if_neg (by simp [hk]), if_neg (by simp), if_neg hk]
    rfl

theorem txUnlock_waits {l : Latch} (slot : Half) {s : State} (h0 : l.f0 = true) (hpos : 0 < s.cfg.txPollCount) :
    (txUnlock l slot s).eng.seq = .running l (.tx (.waitRead slot 0)) := by
  rw [txUnlock, if_pos h0, if_pos hpos]
  rfl

theorem dev_ok (va d : Addr) : dev va (.ok d) = if d = 0 then va else d := rfl

/-- Settles O26: the steps up to the descriptor write, and then the handing over, whose wait makes all its reads. -/
theorem txSendHandsTheFrameOver : Obligations.TxSendHandsTheFrameOver := by
  refine ⟨fun s block vle hr hc hw hlegal hfree => ?_, fun _ _ _ => rfl, fun l slot s => ⟨rfl, txUnlock_waits slot⟩,
    fun l slot k s => ⟨waitRead_eq l slot k s, rfl⟩⟩
  have hexec := exec_txSend (block := block) hr hc hw hlegal hfree
  generalize encode (.txSend block vle) = w at hexec
  obtain ⟨hreads, hdelays, hall⟩ := waits_spec (s.sendPushed w vle) block s.eng.txW _ rfl
  refine ⟨_, dev s.regs.arg0 (s.answer 0), _, hexec, (sendPushed_outer w vle).trans (handOver_outer _ _ _), ?_, ?_, rfl, ?_,
    ?_, ?_, rfl, ?_, (sendPushed_bytes w vle).handOver _ _, ?_, List.drop_one.symm, rfl, ?_, hreads, hdelays, hall⟩
  · intro d hd hne
    rw [hd, dev_ok, if_neg hne]
  · rintro (h | h) <;> rw [h]
    · rw [dev_ok, if_pos rfl]
    · rfl
  · rw [handOver_eng]
    conv_lhs => rw [sendPushed_eng]
    rw [← hr.idle]
    rfl
  · rw [handOver_txBinding, sendPushed_txBinding w vle hc]
  · intro i hi
    rw [handOver_txBinding, sendPushed_txBinding_ne w vle hi]
  · rw [handOver_txRecAt, sendPushed_txRecAt w vle hc]
    cases vle <;> rfl
  · rw [handOver_maps, sendPushed_maps, sendLocked_maps]
  · rw [handOver_ports, handOver_mem, handOver_eng, sendPushed_ports w vle hc, sendLocked_ports, (sendPushed_outer w vle).cfg]

end Sys2Proof.Machine

end

/-! ## TX.SENDF (41_transmit.md R152 to R156)

The list is read whole, then its fragments are mapped one after the other, then their descriptors are written one after the other, and
then the whole frame is handed over as TX.SEND does it. What the first descriptors leave is an invariant in terms of the state in which
the lock was taken. -/

section

namespace Sys2Proof.Machine

/-! ### The fragments mapped (R147, R152) -/

/-- The fragments `fs` with the device addresses that the mapper gives them from now on. -/
def State.mappedFrags (s : State) (fs : List Frag) : List MappedFrag :=
  fs.zipIdx.map fun p => { va := p.1.va, len := p.1.len, da := dev p.1.va (s.answer p.2) }

/-- The mapping of a fragment. -/
def MappedFrag.mapping (m : MappedFrag) : Mapping := { da := m.da, va := m.va, len := m.len.toNat }

/-- The port actions that map the fragments `fs`, newest first. -/
def State.mapPorts (s : State) (fs : List Frag) : List PortAction :=
  (fs.zipIdx.map fun p => PortAction.map p.1.va p.1.len.toNat (s.answer p.2)).reverse

/-- `s` after the fragments `fs` are mapped. -/
def State.mapFrags (s : State) (fs : List Frag) : State :=
  { s with
    mapper := s.mapper.drop fs.length
    mapCount := s.mapCount + fs.length
    maps := ((s.mappedFrags fs).map MappedFrag.mapping).reverse ++ s.maps
    ports := s.mapPorts fs ++ s.ports }

theorem mappedFrags_length (s : State) (fs : List Frag) : (s.mappedFrags fs).length = fs.length := by simp [State.mappedFrags]

theorem mappedFrags_getElem? (s : State) (fs : List Frag) {j : Nat} {g : Frag} (hg : fs[j]? = some g) :
    (s.mappedFrags fs)[j]? = some { va := g.va, len := g.len, da := dev g.va (s.answer j) } := by
  simp [State.mappedFrags, List.getElem?_zipIdx, hg]

theorem mappedFrags_append (s : State) (fs : List Frag) (f : Frag) : s.mappedFrags (fs ++ [f]) =
    s.mappedFrags fs ++ [{ va := f.va, len := f.len, da := dev f.va (s.answer fs.length) }] := by
  simp [State.mappedFrags, List.zipIdx_append]

theorem mapTx_eq (t : State) (va : Addr) (len : Nat) : t.mapTx va len = { t with
    mapper := t.mapper.tail
    mapCount := t.mapCount + 1
    maps := { da := dev va t.mapAnswer, va := va, len := len } :: t.maps
    ports := .map va len t.mapAnswer :: t.ports } := rfl

theorem mapFrags_mapTx (s : State) (fs : List Frag) (f : Frag) :
    (s.mapFrags fs).mapTx f.va f.len.toNat = s.mapFrags (fs ++ [f]) := by
  have hanswer : (s.mapFrags fs).mapAnswer = s.answer fs.length := mapAnswer_of_drop rfl rfl
  rw [mapTx_eq, hanswer]
  simp [State.mapFrags, mappedFrags_append, State.mapPorts, MappedFrag.mapping, List.zipIdx_append, Nat.add_assoc]

/-- One turn of the engine maps one fragment. -/
theorem fragMap_turn (l : Latch) (s : State) (fs : List Frag) (f : Frag) (todo : List Frag) :
    ((s.mapFrags fs).goto l (.tx (.fragMap f todo (s.mappedFrags fs)))).engineTurn = (s.mapFrags (fs ++ [f])).goto l
      (.tx (afterFragMap todo (s.mappedFrags fs) { va := f.va, len := f.len, da := dev f.va (s.answer fs.length) })) := by
  have hanswer : (s.mapFrags fs).mapAnswer = s.answer fs.length := mapAnswer_of_drop rfl rfl
  rw [← mapFrags_mapTx, ← hanswer]
  rfl

/-- The fragments that are left are mapped, and then the lock is next. -/
theorem fragMap_iterate (l : Latch) (s : State) (todo fs : List Frag) (f : Frag) :
    ∃ g rest, s.mappedFrags (fs ++ f :: todo) = g :: rest ∧
    State.engineTurn^[todo.length + 1] ((s.mapFrags fs).goto l (.tx (.fragMap f todo (s.mappedFrags fs)))) =
      (s.mapFrags (fs ++ f :: todo)).goto l (.tx (.fragAcquire g rest)) := by
  induction todo generalizing fs f with
  | nil =>
    obtain ⟨_, _, h, _⟩ | ⟨g, rest, _, hg, e⟩ := afterFragMap_cases [] (s.mappedFrags fs)
      { va := f.va, len := f.len, da := dev f.va (s.answer fs.length) }
    · cases h
    · exact ⟨g, rest, (mappedFrags_append s fs f).trans hg, (fragMap_turn l s fs f []).trans (by rw [e])⟩
  | cons f' todo ih =>
    obtain ⟨g, rest, hg, e⟩ := ih (fs ++ [f]) f'
    rw [List.append_assoc, List.singleton_append] at hg e
    refine ⟨g, rest, hg, ?_⟩
    rw [List.length_cons, Function.iterate_succ_apply, fragMap_turn, ← e, mappedFrags_append]
    rfl

/-! ### The descriptors written so far (R148, R149, R154) -/

/-- What the descriptor writes of a transmit need of the ring. -/
structure State.TxRingFits (s : State) : Prop where
  cfg : configWf s.cfg = true
  ring : s.eng.n.toNat ≤ s.cfg.nMax
  cursor : s.eng.txW.toNat < s.eng.n.toNat

/-- The `j`-th slot from the write cursor of `s` on. -/
abbrev State.txSlotFrom (s : State) (j : Nat) : Nat := slotFrom s.eng.txW s.eng.n j

/-- The record written for `m` as the `j`-th of `total` fragments: EOP on the last one only. -/
def fragRec (l : Latch) (total j : Nat) (m : MappedFrag) : TxRec := txDesc m.da m.len (txCmd (decide (j + 1 = total)) l.f1) l.tag

/-- The descriptors of the fragments `ms`, the first of `total`, with their addresses. -/
def State.fragDescs (s : State) (l : Latch) (total : Nat) (ms : List MappedFrag) : List (Addr × Desc) :=
  ms.zipIdx.map fun p => (txSlotAddr s.cfg (s.txSlotFrom p.2), encodeTx s.cfg (fragRec l total p.2 p.1))

/-- `t` is `s` after a running TX.SENDF has written the descriptors of `ms`, the first of `total` fragments. -/
structure State.FragsPushed (s : State) (l : Latch) (total : Nat) (ms : List MappedFrag) (t : State) : Prop where
  outer : s.SameOuter t
  eng : t.eng = { s.eng with
    seq := t.eng.seq, txTab := t.eng.txTab, txW := BitVec.ofNat 16 (s.txSlotFrom ms.length) }
  regs : t.regs = s.regs
  nic : t.nic = s.nic
  mapper : s.SameMapper t
  tab : tableWf noTx t.eng.txTab = true
  bound : ∀ j m, ms[j]? = some m → t.txBinding (s.txSlotFrom j) = { bind := m.da, va := m.va, len := m.len }
  others : ∀ i, (∀ j, j < ms.length → i ≠ s.txSlotFrom j) → t.txBinding i = s.txBinding i
  descs : DescsWritten s.mem (s.fragDescs l total ms) t.mem
  ports : ∃ new, t.ports = new ++ s.ports ∧ new.countP (fun a => a.isAccess) = 0

theorem fragDescs_append (s : State) (l : Latch) (total : Nat) (ms : List MappedFrag) (m : MappedFrag) :
    s.fragDescs l total (ms ++ [m]) = s.fragDescs l total ms ++
      [(txSlotAddr s.cfg (s.txSlotFrom ms.length), encodeTx s.cfg (fragRec l total ms.length m))] := by
  simp [State.fragDescs, List.zipIdx_append]

theorem exists_of_mem_fragDescs {s : State} {l : Latch} {total : Nat} {ms : List MappedFrag} {w : Addr × Desc}
    (h : w ∈ s.fragDescs l total ms) : ∃ j, j < ms.length ∧ w.1 = txSlotAddr s.cfg (s.txSlotFrom j) := by
  obtain ⟨⟨m, j⟩, hp, rfl⟩ := List.mem_map.mp h
  exact ⟨j, (List.mem_zipIdx' hp).1, rfl⟩

theorem mem_fragDescs {s : State} {l : Latch} {total : Nat} {ms : List MappedFrag} {j : Nat} {m : MappedFrag} (hm : ms[j]? = some m) :
    (txSlotAddr s.cfg (s.txSlotFrom j), encodeTx s.cfg (fragRec l total j m)) ∈ s.fragDescs l total ms :=
  List.mem_map.mpr ⟨(m, j), List.mk_mem_zipIdx_iff_getElem?.mpr hm, rfl⟩

theorem pushDesc_eng (t : State) (va : Addr) (len : Half) (da : Addr) (cmd : Byte) (tag : Half) :
    (pushDesc t va len da cmd tag).eng =
      { t.eng with txTab := (pushDesc t va len da cmd tag).eng.txTab, txW := adv t.eng.txW t.eng.n } := rfl

theorem pushDesc_ports (t : State) (va : Addr) (len : Half) (da : Addr) (cmd : Byte) (tag : Half) :
    (pushDesc t va len da cmd tag).ports = .memWrite (txSlotAddr t.cfg t.eng.txW.toNat)
      (descBytes (encodeTx t.cfg (txDesc da len cmd tag))) :: t.ports := by
  simp [pushDesc]

/-- Before the first descriptor write. -/
theorem fragsPushed_nil {s : State} (hb : s.TxRingFits) (hmem : memWf s.mem = true) (htab : tableWf noTx s.eng.txTab = true)
    (l : Latch) (total : Nat) : s.FragsPushed l total [] s where
  outer := State.SameOuter.refl s
  eng := by
    simp [State.txSlotFrom, slotFrom, Nat.mod_eq_of_lt hb.cursor]
  regs := rfl
  nic := rfl
  mapper := ⟨rfl, rfl, rfl⟩
  tab := htab
  bound := nofun
  others := fun _ _ => rfl
  descs := ⟨hmem, nofun, fun _ _ => rfl⟩
  ports := ⟨[], rfl, rfl⟩

/-- The slots from the write cursor on are different, up to once around the ring. -/
theorem txSlotFrom_ne {s : State} {j k : Nat} (hjk : j < k) (hk : k < s.eng.n.toNat) : s.txSlotFrom j ≠ s.txSlotFrom k := by
  intro h
  have hmod : j ≡ k [MOD s.eng.n.toNat] := Nat.ModEq.add_left_cancel' s.eng.txW.toNat h
  exact absurd (hmod.eq_of_lt_of_lt (by omega) hk) (by omega)

section
variable {s t : State} (hb : s.TxRingFits)
include hb

theorem State.TxRingFits.slot_lt (j : Nat) : s.txSlotFrom j < s.eng.n.toNat := Nat.mod_lt _ (Nat.zero_lt_of_lt hb.cursor)

theorem State.TxRingFits.slot_toNat (j : Nat) : (BitVec.ofNat 16 (s.txSlotFrom j)).toNat = s.txSlotFrom j := by
  have hlt := hb.slot_lt j
  have hn := s.eng.n.isLt
  rw [BitVec.toNat_ofNat, Nat.mod_eq_of_lt (by omega)]

theorem State.TxRingFits.adv_slot (j : Nat) :
    adv (BitVec.ofNat 16 (s.txSlotFrom j)) s.eng.n = BitVec.ofNat 16 (s.txSlotFrom (j + 1)) := by
  rw [adv, hb.slot_toNat, State.txSlotFrom, slotFrom, State.txSlotFrom, slotFrom, Nat.mod_add_mod, Nat.add_assoc]

/-- Descriptors of different slots have no byte in common. -/
theorem State.TxRingFits.slots_apart {j k : Nat} (hjk : j < k) (hk : k < s.eng.n.toNat) {b : Addr}
    (hin : inRange b (txSlotAddr s.cfg (s.txSlotFrom j)) 16) : ¬ inRange b (txSlotAddr s.cfg (s.txSlotFrom k)) 16 := by
  obtain ⟨-, -, hend, -⟩ := configWf_spec hb.cfg
  have hring := hb.ring
  have hj := hb.slot_lt j
  have hk' := hb.slot_lt k
  exact ringSlots_apart hend (by omega) (by omega) (txSlotFrom_ne hjk hk) hin

variable {l : Latch} {total : Nat} {ms : List MappedFrag} (h : s.FragsPushed l total ms t)
include h

theorem State.FragsPushed.txW_toNat : t.eng.txW.toNat = s.txSlotFrom ms.length := by
  rw [h.eng]
  exact hb.slot_toNat _

/-- One more descriptor. -/
theorem State.FragsPushed.push (hlt : ms.length < s.eng.n.toNat) (m : MappedFrag) : s.FragsPushed l total (ms ++ [m])
    (pushDesc t m.va m.len m.da (txCmd (decide (ms.length + 1 = total)) l.f1) l.tag) where
  outer := h.outer.trans (pushDesc_outer _ _ _ _ _ _)
  eng := by
    have htxW : adv t.eng.txW t.eng.n = BitVec.ofNat 16 (s.txSlotFrom (ms.length + 1)) := by
      rw [h.eng]
      exact hb.adv_slot _
    conv_lhs => rw [pushDesc_eng, htxW, h.eng]
    rw [List.length_append, List.length_singleton]
    rfl
  regs := by simp [pushDesc, h.regs]
  nic := by simp [pushDesc, h.nic]
  mapper := ⟨by simp [pushDesc, h.mapper.maps], by simp [pushDesc, h.mapper.mapper], by simp [pushDesc, h.mapper.mapCount]⟩
  tab := by
    rw [pushDesc]
    exact tableSet_wf noTx h.tab _ _
  bound := by
    intro j m' hm'
    rcases Nat.lt_or_ge j ms.length with hj | hj
    · rw [List.getElem?_append_left hj] at hm'
      rw [pushDesc_txBinding_ne _ _ _ _ _ _ (by rw [h.txW_toNat hb]; exact txSlotFrom_ne hj hlt), h.bound j m' hm']
    · obtain rfl : j = ms.length := by
        have hj' := (List.getElem?_eq_some_iff.mp hm').1
        rw [List.length_append, List.length_singleton] at hj'
        omega
      obtain rfl : m = m' := by simpa using hm'
      rw [← h.txW_toNat hb, pushDesc_txBinding_same _ _ _ _ _ h.tab]
  others := by
    intro i hi
    simp only [List.length_append, List.length_singleton] at hi
    rw [pushDesc_txBinding_ne _ _ _ _ _ _ (by rw [h.txW_toNat hb]; exact hi _ (Nat.lt_succ_self _)),
      h.others i fun j hj => hi j (Nat.lt_succ_of_lt hj)]
  descs := by
    rw [pushDesc_mem, h.outer.cfg, h.txW_toNat hb, fragDescs_append]
    refine h.descs.write _ fun w hw b hin => ?_
    obtain ⟨j, hj, hwa⟩ := exists_of_mem_fragDescs hw
    rw [hwa] at hin
    exact hb.slots_apart hj hlt hin
  ports := by
    obtain ⟨new, hnew, hcount⟩ := h.ports
    refine ⟨_ :: new, (pushDesc_ports t _ _ _ _ _).trans (congrArg (List.cons _) hnew), ?_⟩
    exact (List.countP_cons_of_neg Bool.false_ne_true).trans hcount

omit hb in
/-- The descriptors written read back. -/
theorem State.FragsPushed.record {j : Nat} {m : MappedFrag} (hm : ms[j]? = some m) :
    t.txRecAt (s.txSlotFrom j) = fragRec l total j m := by
  rw [State.txRecAt, h.outer.cfg, readDesc_of_readBytes (h.descs.back _ (mem_fragDescs hm))]
  exact decodeTx_encodeTx_txDesc _ _ _ _ _ _

omit hb in
/-- Nothing outside the descriptors written has changed. -/
theorem State.FragsPushed.bytes :
    s.SameBytesBut t ((List.range ms.length).map fun j => (txSlotAddr s.cfg (s.txSlotFrom j), 16)) := by
  intro b hout
  refine h.descs.out b fun w hw => ?_
  obtain ⟨j, hj, hwa⟩ := exists_of_mem_fragDescs hw
  rw [hwa]
  exact hout (_, 16) (List.mem_map_of_mem (List.mem_range.mpr hj))

end

/-- One turn of the engine writes one descriptor. -/
theorem fragWrite_turn (l : Latch) (t : State) (f : MappedFrag) (rest : List MappedFrag) :
    (t.goto l (.tx (.fragWrite f rest))).engineTurn = (pushDesc t f.va f.len f.da (txCmd rest.isEmpty l.f1) l.tag).goto l
      (match rest with
        | [] => .tx (.tail t.eng.txW)
        | g :: gs => .tx (.fragWrite g gs)) := by
  cases rest <;> rfl

/-- The descriptors that are left are written, and then the tail is next, for the slot of the last one. -/
theorem fragWrite_iterate {s : State} (hb : s.TxRingFits) (l : Latch) {total : Nat} (rest ms : List MappedFrag) (f : MappedFrag)
    {t : State} (htotal : ms.length + (rest.length + 1) = total) (hn : total ≤ s.eng.n.toNat) (h : s.FragsPushed l total ms t) :
    ∃ u, s.FragsPushed l total (ms ++ f :: rest) u ∧ State.engineTurn^[rest.length + 1] (t.goto l (.tx (.fragWrite f rest))) =
      u.goto l (.tx (.tail (BitVec.ofNat 16 (s.txSlotFrom (total - 1))))) := by
  induction rest generalizing ms f t with
  | nil =>
    have hlast : ms.length + 1 = total := htotal
    have htxW : t.eng.txW = BitVec.ofNat 16 (s.txSlotFrom (total - 1)) := by
      rw [h.eng, ← hlast]
      rfl
    refine ⟨_, h.push hb (by omega) f, ?_⟩
    rw [← htxW, decide_eq_true hlast]
    exact fragWrite_turn l t f []
  | cons f' rest ih =>
    rw [List.length_cons] at htotal
    have hlast : ms.length + 1 ≠ total := by omega
    obtain ⟨u, hu, e⟩ := ih (ms ++ [f]) f' (by rw [List.length_append, List.length_singleton]; omega) (h.push hb (by omega) f)
    rw [List.append_assoc, List.singleton_append] at hu
    refine ⟨u, hu, ?_⟩
    rw [← e, decide_eq_false hlast, List.length_cons, Function.iterate_succ_apply, fragWrite_turn]
    rfl

/-! ### TX.SENDF as a whole -/

/-- `s` with word `w` of a TX.SENDF started, after the list is read, its fragments `fs` are mapped and the lock is taken. -/
def State.sendfLocked (s : State) (w : Word) (fs : List Frag) : State :=
  (((s.startCmd w).readFrags s.regs.arg0 fs.length).mapFrags fs).acquire

/-- After a list of legal fragments whose slots are free the first fragment is mapped. -/
theorem fragsRead_frags (l : Latch) {t : State} (f : Frag) (todo : List Frag) (hfree : t.slotsFree l.imm = true) :
    fragsRead l ((f :: todo).map some) t = t.goto l (.tx (.fragMap f todo [])) := by
  rw [fragsRead, (allFrags_eq_some _ _).mpr rfl]
  exact if_pos hfree

/-- The steps of TX.SENDF that read its list, map its fragments and take the lock. -/
theorem sendf_locks {s : State} {block vle : Bool} {f : Half} {fs : List Frag} (hlock : s.lockOther = false)
    (hlegal : s.SendfLegal vle f.toNat) (hlen : fs.length = f.toNat) (hlist : s.ListHolds fs) (hfree : s.slotsFree f.toNat = true)
    {w : Word} (hw : w = encode (.txSendf block vle f)) : ∃ g rest, s.mappedFrags fs = g :: rest ∧
      State.engineTurn^[1 + (fs.length + fs.length)] (sendfStart (s.latch w) (s.startCmd w)) =
        (s.sendfLocked w fs).goto (s.latch w) (.tx (.fragWrite g rest)) := by
  have himm : (s.latch w).imm = fs.length := by rw [hw, hlen, latch_imm_txSendf]
  have hpos : 0 < (s.latch w).imm := by rw [himm, hlen]; exact hlegal.count.1
  have hstart : sendfStart (s.latch w) (s.startCmd w) = (s.startCmd w).goto (s.latch w) (.tx (.fragRead [])) := by
    rw [hw]
    exact if_neg (ne_true_of_eq_false ((sendfRefused_eq_false_iff block vle f).mpr hlegal))
  obtain ⟨p, hread⟩ := fragRead_iterate_imm (s.latch w) (s.startCmd w) hpos
  rw [himm] at hread
  cases fs with
  | nil => rw [himm] at hpos; cases hpos
  | cons f0 todo =>
    obtain ⟨g, rest, hg, hmap⟩ := fragMap_iterate (s.latch w) ((s.startCmd w).readFrags s.regs.arg0 (todo.length + 1)) todo [] f0
    refine ⟨g, rest, hg, ?_⟩
    have hlisted : fragsRead (s.latch w) (fragEntries (s.startCmd w).mem (s.latch w).arg0 (f0 :: todo).length)
        (((s.startCmd w).readFrags (s.latch w).arg0 (f0 :: todo).length).goto (s.latch w) p) =
        ((s.startCmd w).readFrags s.regs.arg0 (todo.length + 1)).goto (s.latch w) (.tx (.fragMap f0 todo [])) := by
      refine (congrArg (fragsRead (s.latch w) · _) (fragEntries_of_listHolds hlist)).trans ?_
      refine fragsRead_frags (s.latch w) f0 todo ?_
      rw [himm, hlen]
      exact hfree
    rw [Function.iterate_add_apply, Function.iterate_add_apply, hstart, hread, hlisted, Function.iterate_one]
    refine (congrArg State.engineTurn hmap).trans ?_
    exact if_neg (ne_true_of_eq_false hlock)

/-- TX.SENDF with a legal list and free slots writes the descriptors of all its fragments and hands them over. -/
theorem exec_txSendf {s : State} {block vle : Bool} {f : Half} {fs : List Frag} (hr : s.Ready) (hc : s.Canonical) (hring : s.RingOk)
    (hi : s.eng.hwInit = true) (hlegal : s.SendfLegal vle f.toNat) (hlen : fs.length = f.toNat) (hlist : s.ListHolds fs)
    (hfree : s.slotsFree f.toNat = true) {w : Word} (hw : w = encode (.txSendf block vle f)) :
    ∃ u, (s.sendfLocked w fs).FragsPushed (s.latch w) f.toNat (s.mappedFrags fs) u ∧
      exec (.txSendf block vle f) s = .next (u.handOver block (BitVec.ofNat 16 (s.txSlotFrom (f.toNat - 1)))) := by
  have hup := hring.up hi
  have hb : (s.sendfLocked w fs).TxRingFits := ⟨hr.cfg, hup.size.2, hup.txW⟩
  have h0 : (s.latch w).f0 = block := by rw [hw]; exact f0Field_cmdWord _ _ _ _
  obtain ⟨g, rest, hg, hlocks⟩ := sendf_locks hr.lock hlegal hlen hlist hfree hw
  have htotal : rest.length + 1 = f.toNat := by rw [← hlen, ← mappedFrags_length s fs, hg, List.length_cons]
  obtain ⟨u, hu, hwrites⟩ := fragWrite_iterate hb (s.latch w) rest [] g (Nat.zero_add _ |>.trans htotal) hlegal.count.2.2
    (fragsPushed_nil hb hc.mem hc.tx (s.latch w) f.toNat)
  rw [List.nil_append, ← hg] at hu
  have hnot : txDone (u.txRecAt (BitVec.ofNat 16 ((s.sendfLocked w fs).txSlotFrom (f.toNat - 1))).toNat) = false := by
    have hlt : f.toNat - 1 < (s.mappedFrags fs).length := by rw [mappedFrags_length, hlen]; omega
    rw [hb.slot_toNat, hu.record (List.getElem?_eq_getElem hlt)]
    exact txDone_txDesc _ _ _ _
  obtain ⟨k, hk, e⟩ := handOver_iterate (s.latch w) hnot
  rw [h0] at e
  refine ⟨u, hu, exec_ready hr rfl (fun _ => hi) (k + (rest.length + 1 + (1 + (fs.length + fs.length))))
    (le_stepBound_wait ?_) ?_ rfl⟩
  · have hcfg : u.cfg = s.cfg := hu.outer.cfg
    rw [hcfg] at hk
    omega
  · subst hw
    change State.engineTurn^[_] (sendfStart _ _) = _
    rw [Function.iterate_add_apply, Function.iterate_add_apply, hlocks, hwrites]
    exact e

/-! ### What a TX.SENDF leaves -/

theorem sendfLocked_outer (s : State) (w : Word) (fs : List Frag) : s.SameOuter (s.sendfLocked w fs) := ⟨rfl, rfl, rfl, rfl, rfl⟩

theorem sendfLocked_eng (s : State) (w : Word) (fs : List Frag) :
    (s.sendfLocked w fs).eng = { s.eng with seq := (s.sendfLocked w fs).eng.seq, lockHeld := true } := rfl

theorem sendfLocked_maps (s : State) (w : Word) (fs : List Frag) : (s.sendfLocked w fs).maps = (fs.zipIdx.map (fun p =>
    ({ da := dev p.1.va (s.answer p.2), va := p.1.va, len := p.1.len.toNat } : Mapping))).reverse ++ s.maps := by
  change ((s.mappedFrags fs).map MappedFrag.mapping).reverse ++ s.maps = _
  rw [State.mappedFrags, List.map_map]
  rfl

/-- The port actions up to the lock access no NIC register. -/
theorem sendfLocked_ports (s : State) (w : Word) (fs : List Frag) :
    ∃ new, (s.sendfLocked w fs).ports = new ++ s.ports ∧ new.countP (fun a => a.isAccess) = 0 := by
  refine ⟨.acquire :: (s.mapPorts fs ++ fragReads s.regs.arg0 fs.length), ?_, ?_⟩
  · rw [List.cons_append, List.append_assoc]
    rfl
  · rw [List.countP_eq_zero]
    intro a ha
    simp only [List.mem_cons, List.mem_append, State.mapPorts, fragReads, List.mem_reverse, List.mem_map] at ha
    obtain rfl | ⟨_, _, rfl⟩ | ⟨_, _, rfl⟩ := ha <;> exact Bool.false_ne_true

/-- Of the port actions that hand a frame over, the tail write alone accesses a NIC register. -/
theorem handOver_access (t : State) (block : Bool) (slot : Half) : ∃ new, (t.handOver block slot).ports = new ++ t.ports ∧
    new.countP (fun a => a.isAccess) = 1 := by
  refine ⟨(if block then t.waitPorts slot else []) ++ [.release, .regWrite t.cfg.oTdt (t.eng.txW.setWidth 32)], ?_, ?_⟩
  · rw [List.append_assoc]
    rfl
  · rw [List.countP_append]
    cases block with
    | false => rfl
    | true => exact congrArg (· + 1) (countP_pollPorts _ _ _ _)

/-- The `cmd` value of a fragment's descriptor (R149, R154). -/
theorem txCmd_eq (last vle : Bool) : txCmd last vle = (if last then 0x0B else 0x0A) ||| (if vle then 0x40 else 0) := by
  revert last vle
  decide

/-- Settles O28: the descriptors of all the fragments are written in order, and then the frame is handed over once. -/
theorem txSendfHandsTheFragmentsOver : Obligations.TxSendfHandsTheFragmentsOver := by
  refine ⟨fun s block vle f fs hr hc hring hi hlegal hlen hlist hfree => ?_, fun l f rest s => ?_,
    fun l slot s => ⟨rfl, txUnlock_waits slot⟩, fun l slot k s hdd => if_pos ((and_staDd_ne_zero _).trans hdd)⟩
  · obtain ⟨u, hu, hexec⟩ := exec_txSendf hr hc hring hi hlegal hlen hlist hfree rfl
    have h1 : (s.latch (encode (.txSendf block vle f))).f1 = vle := f1Field_cmdWord _ _ _ _
    have htag : (s.latch (encode (.txSendf block vle f))).tag = if vle then lowHalf s.regs.arg2 else 0 := by
      rw [Latch.tag, h1]
      rfl
    generalize encode (.txSendf block vle f) = w at hu h1 htag
    have hms : (s.mappedFrags fs).length = f.toNat := (mappedFrags_length s fs).trans hlen
    have hothers := hu.others
    have hbytes := hu.bytes
    rw [hms] at hothers hbytes
    refine ⟨_, hexec, ((sendfLocked_outer s w fs).trans hu.outer).trans (handOver_outer _ _ _), ?_, ?_, ?_, ?_, ?_, ?_, ?_, ?_, ?_, ?_⟩
    · rw [handOver_regs, hu.regs]
      rfl
    · rw [handOver_eng]
      conv_lhs => rw [hu.eng, sendfLocked_eng, hms, ← hr.idle]
      rfl
    · rw [handOver_nic, hu.nic]
      rfl
    · intro j g hg
      have hm := mappedFrags_getElem? s fs hg
      refine ⟨(handOver_txBinding _ _ _ _).trans (hu.bound j _ hm), ?_⟩
      rw [handOver_txRecAt]
      refine (hu.record hm).trans ?_
      rw [fragRec, h1, htag, txCmd_eq]
      simp only [txDesc, decide_eq_true_eq]
    · intro i hne
      exact (handOver_txBinding _ _ _ _).trans (hothers i hne)
    · exact State.SameBytesBut.handOver hbytes _ _
    · exact hu.mapper.mapper.trans (by rw [← hlen]; rfl)
    · exact hu.mapper.mapCount.trans (by rw [← hlen]; rfl)
    · rw [handOver_maps, hu.mapper.maps, sendfLocked_maps]
    · obtain ⟨new1, e1, h1⟩ := handOver_access u block (BitVec.ofNat 16 (s.txSlotFrom (f.toNat - 1)))
      obtain ⟨new2, e2, h2⟩ := hu.ports
      obtain ⟨new3, e3, h3⟩ := sendfLocked_ports s w fs
      refine ⟨new1 ++ (new2 ++ new3), ?_, ?_⟩
      · rw [e1, e2, e3, List.append_assoc, List.append_assoc]
      · rw [List.countP_append, List.countP_append, h1, h2, h3]
  · cases rest <;> rfl


end Sys2Proof.Machine

end

/-! ## RX.POLL: the completed descriptor (42_receive.md R169 to R174, R180, R183)

A completed descriptor is dropped or its frame is delivered; either way its slot is re-armed. What the re-arm does is said once, for both
ends of the command. -/

section

namespace Sys2Proof.Machine

/-! ### The frame type (R173) -/

/-- Settles O59: `classify` tests the conditions in this order. -/
theorem classifyPrecedence : Obligations.ClassifyPrecedence := fun _ _ =>
  ⟨fun hown => if_pos hown,
    fun hown hones => (if_neg hown).trans (if_pos hones),
    fun hown hones hgroup => (if_neg hown).trans ((if_neg hones).trans (if_pos hgroup)),
    fun hown hones hgroup => (if_neg hown).trans ((if_neg hones).trans (if_neg (ne_true_of_eq_false hgroup))),
    rfl, rfl, rfl, rfl⟩

/-- The low half of `RES4` is the frame type's code (30_encoding.md R109). -/
theorem res4Word_classify (c : Config) (m : Mac) (etype : Half) : res4Word etype (classify c m) =
    etype ++ (if m = c.adapterMac then 1#16 else if m = 0xFFFFFFFFFFFF then 2 else if m.getLsbD 40 then 3 else 4) := by
  have hcode : 0#13 ++ (classify c m).bits =
      (if m = c.adapterMac then 1#16 else if m = 0xFFFFFFFFFFFF then 2 else if m.getLsbD 40 then 3 else 4) := by
    obtain ⟨hunicast, hbroadcast, hmulticast, hpromiscuous, _⟩ := classifyPrecedence c m
    by_cases hown : m = c.adapterMac
    · rw [hunicast hown, if_pos hown]
      rfl
    · by_cases hones : m = 0xFFFFFFFFFFFF
      · rw [hbroadcast hown hones, if_neg hown, if_pos hones]
        rfl
      · rw [if_neg hown, if_neg hones]
        cases hgroup : m.getLsbD 40 with
        | true => rw [hmulticast hown hones hgroup, if_pos rfl]; rfl
        | false => rw [hpromiscuous hown hones hgroup, if_neg Bool.false_ne_true]; rfl
  rw [← hcode]
  exact BitVec.append_assoc

/-! ### What every step of RX.POLL leaves (R183) -/

/-- `t` has the mapper's state of `s`, and its block and NIC are those of `s` but for the sequencer, the receive cursor, at most one slot
on, the truncation counter, the receive tail, the results and the status code. -/
structure State.ReceiveFrame (s t : State) : Prop where
  mapper : s.SameMapper t
  eng : t.eng = { s.eng with
    seq := t.eng.seq
    rxC := t.eng.rxC
    rxTrunc := t.eng.rxTrunc }
  nic : t.nic = { s.nic with rdt := t.nic.rdt }
  regs : t.regs = { s.regs with
    res0 := t.regs.res0
    res1 := t.regs.res1
    res2 := t.regs.res2
    res3 := t.regs.res3
    res4 := t.regs.res4
    code := t.regs.code }
  rxC : t.eng.rxC = s.eng.rxC ∨ t.eng.rxC = adv s.eng.rxC s.eng.n

/-- Counting a truncated frame writes the counter alone (R172). -/
theorem countTrunc_eq (s : State) (len : Half) (n : Nat) : countTrunc s len n =
    { s with eng := { s.eng with rxTrunc := if n < len.toNat then s.eng.rxTrunc + 1 else s.eng.rxTrunc } } := by
  unfold countTrunc
  split <;> rfl

section
variable (l : Latch) (s : State)

theorem rxStep_frame (q : RxPoint) : s.ReceiveFrame (rxStep l q s) := by
  cases q with
  | read =>
    simp only [rxStep]
    obtain ⟨_, e⟩ | ⟨_, _, e⟩ | ⟨_, _, _, _, e⟩ | ⟨_, _, _, _, e⟩ := pollRead_cases l s _ _ rfl rfl <;> rw [e]
    · exact ⟨⟨rfl, rfl, rfl⟩, rfl, rfl, rfl, .inl rfl⟩
    · exact ⟨⟨rfl, rfl, rfl⟩, rfl, rfl, rfl, .inl rfl⟩
    · exact ⟨⟨rfl, rfl, rfl⟩, rfl, rfl, rfl, .inl rfl⟩
    · rw [countTrunc_eq]
      exact ⟨⟨rfl, rfl, rfl⟩, rfl, rfl, rfl, .inl rfl⟩
  | copy len n =>
    simp only [rxStep, pollCopy, countTrunc_eq]
    exact ⟨⟨rfl, rfl, rfl⟩, rfl, rfl, rfl, .inl rfl⟩
  | header len n => exact ⟨⟨rfl, rfl, rfl⟩, rfl, rfl, rfl, .inl rfl⟩
  | rearm report => refine ⟨⟨?_, ?_, ?_⟩, ?_, ?_, ?_, .inl ?_⟩ <;> simp [rxStep, pollRearm]
  | tail report => cases report <;> refine ⟨⟨?_, ?_, ?_⟩, ?_, ?_, ?_, .inr ?_⟩ <;> simp [rxStep, pollTail, nicWrite]

theorem pollRead_mem : (pollRead l s).mem = s.mem := by
  obtain ⟨_, e⟩ | ⟨_, _, e⟩ | ⟨_, _, _, _, e⟩ | ⟨_, _, _, _, e⟩ := pollRead_cases l s _ _ rfl rfl <;> rw [e]
  · rfl
  · rfl
  · rfl
  · rw [countTrunc_eq]
    rfl

theorem pollTail_mem (report : Option RxReport) : (pollTail report s).mem = s.mem := by
  cases report <;> rfl

theorem pollCopy_bytes (len : Half) (n : Nat) : s.SameBytesBut (pollCopy l len n s) [(l.arg0, n)] := by
  refine sameBytesBut_of_writeBytes (bs := readBytes s.mem (s.rxBinding s.eng.rxC.toNat).va n) ?_ (readBytes_length _ _ _)
  rw [pollCopy, countTrunc_eq]
  rfl

theorem pollRearm_bytes (report : Option RxReport) :
    s.SameBytesBut (pollRearm l report s) [(rxSlotAddr s.cfg s.eng.rxC.toNat, 16)] :=
  sameBytesBut_of_writeBytes rfl (descBytes_length _)

end

/-- Settles O50: the copy and the descriptor write are the two positions that store. -/
theorem receiveStepsFrame : Obligations.ReceiveStepsFrame := by
  rintro l q s t rfl
  have ho := engineStep_outer l s (.rx q)
  obtain ⟨hmapper, heng, hnic, hregs, hcur⟩ : s.ReceiveFrame (engineStep l (.rx q) s) := rxStep_frame l s q
  refine ⟨ho, hmapper, heng, hnic, hregs, hcur, ?_⟩
  cases q with
  | read => exact ⟨sameBytesBut_of_mem (pollRead_mem l s) _, fun _ _ => pollRead_mem l s⟩
  | copy len n => exact ⟨pollCopy_bytes l s len n, fun hcopy _ => absurd rfl (hcopy len n)⟩
  | header len n => exact ⟨sameBytesBut_of_mem rfl _, fun _ _ => rfl⟩
  | rearm report => exact ⟨pollRearm_bytes l s report, fun _ hrearm => absurd rfl (hrearm report)⟩
  | tail report => exact ⟨sameBytesBut_of_mem (pollTail_mem s report) _, fun _ _ => pollTail_mem s report⟩

/-! ### The start and the re-arm (R167, R174) -/

/-- RX.POLL with a legal destination and an open queue reads the descriptor, and is over after `k` steps from there. -/
theorem exec_rxPoll {s : State} (hr : s.Ready) (hw : s.eng.hwInit = true) (hlegal : s.PollLegal) (k : Nat) {t : State} (hk : k < 524288)
    (h : State.engineTurn^[k] ((s.startCmd (encode .rxPoll)).goto (s.latch (encode .rxPoll)) (.rx .read)) = t)
    (ht : t.eng.seq = .idle) : exec .rxPoll s = .next t := by
  have hstart : pollStart (s.latch (encode .rxPoll)) (s.startCmd (encode .rxPoll)) = _ :=
    if_neg (ne_true_of_eq_false (pollRefused_eq_false_iff.mpr hlegal))
  refine exec_ready hr rfl (fun _ => hw) k (le_stepBound (by omega)) ?_ ht
  rw [← h, ← hstart]
  rfl

/-- `t` after the three effects of `rearm`: the slot at the receive cursor has its INIT value, the tail is there, the cursor is one slot
on. -/
def State.rearmed (t : State) : State :=
  let i := t.eng.rxC
  let a := rxSlotAddr t.cfg i.toNat
  let bytes := descBytes (encodeRx t.cfg (rxInit (t.rxBinding i.toNat).da))
  { t with
    eng := { t.eng with rxC := adv i t.eng.n }
    nic := { t.nic with rdt := i.setWidth 32 }
    mem := writeBytes t.mem a bytes
    ports := .regWrite t.cfg.oRdt (i.setWidth 32) :: .memWrite a bytes :: t.ports }

/-- How RX.POLL ends after the re-arm: a dropped frame reports nothing (R169). -/
def State.pollEnd (t : State) : Option RxReport → State
  | none => t.finish .noData
  | some r => (t.setReport r).finish .success

/-- The descriptor write does not look at the position. -/
theorem pollRearm_goto (l : Latch) (t : State) (p : Point) (report : Option RxReport) : pollRearm l report (t.goto l p) =
    (t.writeRxd t.eng.rxC.toNat (rxInit (t.rxBinding t.eng.rxC.toNat).da)).goto l (.rx (.tail report)) := by
  simp only [pollRearm, State.goto, State.setSeq, State.setEng, State.writeRxd, State.memWrite, State.setMem,
    State.note, State.rxBinding]

/-- The last two steps of RX.POLL re-arm the slot and end the command. -/
theorem rearm_iterate (l : Latch) (t : State) (report : Option RxReport) :
    State.engineTurn^[2] (t.goto l (.rx (.rearm report))) = t.rearmed.pollEnd report := by
  have hrearm : (t.goto l (.rx (.rearm report))).engineTurn = pollRearm l report (t.goto l (.rx (.rearm report))) := rfl
  have htail (u : State) : (u.goto l (.rx (.tail report))).engineTurn = pollTail report u := by cases report <;> rfl
  rw [Function.iterate_succ_apply, hrearm, pollRearm_goto, Function.iterate_succ_apply, htail]
  cases report <;>
    simp [State.rearmed, State.pollEnd, pollTail, nicWrite, regOffset, State.regWrite, State.writeRxd, State.memWrite, State.setNic,
      State.setMem, State.note, State.setEng]

theorem rearmed_mem (t : State) : t.rearmed.mem = writeBytes t.mem (rxSlotAddr t.cfg t.eng.rxC.toNat)
    (descBytes (encodeRx t.cfg (rxInit (t.rxBinding t.eng.rxC.toNat).da))) := rfl

@[simp] theorem memRead_rxBinding (t : State) (a : Addr) (n i : Nat) : (t.memRead a n).rxBinding i = t.rxBinding i := rfl

@[simp] theorem pollEnd_mem (t : State) (report : Option RxReport) : (t.pollEnd report).mem = t.mem := by cases report <;> rfl

@[simp] theorem pollEnd_rxRecAt (t : State) (report : Option RxReport) (i : Nat) : (t.pollEnd report).rxRecAt i = t.rxRecAt i := by
  cases report <;> rfl

/-- The re-armed slot reads back as INIT wrote it. -/
theorem rearmed_rxRecAt {t : State} (ht : memWf t.mem = true) {i : Nat} (hi : i = t.eng.rxC.toNat) :
    t.rearmed.rxRecAt i = rxInit (t.rxBinding i).da := by
  subst hi
  have hcfg : t.rearmed.cfg = t.cfg := rfl
  rw [State.rxRecAt, hcfg, rearmed_mem, readDesc_writeBytes ht, decodeRx_encodeRx_rxInit]

theorem rearmed_bytes {s t : State} {ranges : List (Addr × Nat)} (h : s.SameBytesBut t ranges) :
    s.SameBytesBut t.rearmed (ranges ++ [(rxSlotAddr t.cfg t.eng.rxC.toNat, 16)]) := by
  intro b hb
  obtain ⟨hold, hslot⟩ := List.forall_mem_append.mp hb
  exact (sameBytesBut_of_writeBytes (rearmed_mem t) (descBytes_length _) b hslot).trans (h b hold)

theorem State.SameBytesBut.pollEnd {s t : State} {ranges : List (Addr × Nat)} (h : s.SameBytesBut t ranges)
    (report : Option RxReport) : s.SameBytesBut (t.pollEnd report) ranges := by
  cases report <;> exact h

/-! ### A dropped frame (R169) -/

/-- `s` after the start of RX.POLL and its read of the descriptor. -/
def State.descRead (s : State) : State := (s.startCmd (encode .rxPoll)).memRead (rxSlotAddr s.cfg s.eng.rxC.toNat) 16

theorem descRead_mem (s : State) : s.descRead.mem = s.mem := rfl

@[simp] theorem descRead_rxBinding (s : State) (i : Nat) : s.descRead.rxBinding i = s.rxBinding i := by
  simp [State.rxBinding, State.descRead]

/-- RX.POLL of a completed descriptor without a good frame, as a whole. -/
theorem exec_rxPoll_drops {s : State} (hr : s.Ready) (hw : s.eng.hwInit = true) (hlegal : s.PollLegal)
    (hdone : rxDone s.cfg (s.rxRecAt s.eng.rxC.toNat) = true)
    (hbad : (s.rxRecAt s.eng.rxC.toNat).length = 0 ∨ (s.rxRecAt s.eng.rxC.toNat).errors ≠ 0) :
    exec .rxPoll s = .next (s.descRead.rearmed.pollEnd none) := by
  refine exec_rxPoll hr hw hlegal 3 (by decide) ?_ rfl
  have hread : ((s.startCmd (encode .rxPoll)).goto (s.latch (encode .rxPoll)) (.rx .read)).engineTurn =
      s.descRead.goto (s.latch (encode .rxPoll)) (.rx (.rearm none)) :=
    (if_neg (ne_true_of_eq_false (congrArg not hdone))).trans (if_pos hbad)
  rw [Function.iterate_succ_apply, hread, rearm_iterate]

/-- Settles O36: after the read of the descriptor only the re-arm is left. -/
theorem rxPollDropsBadFrames : Obligations.RxPollDropsBadFrames := by
  intro s hr hc hw hlegal hdone hbad
  refine ⟨_, exec_rxPoll_drops hr hw hlegal hdone hbad, ⟨rfl, rfl, rfl, rfl, rfl⟩, ⟨rfl, rfl, rfl⟩, rfl, ?_, rfl, ?_, ?_⟩
  · exact congrArg (fun q => { s.eng with seq := q, rxC := adv s.eng.rxC s.eng.n }) hr.idle.symm
  · rw [pollEnd_rxRecAt, rearmed_rxRecAt (by exact hc.mem) (by rfl), descRead_rxBinding, rxInit]
  · exact (rearmed_bytes (sameBytesBut_of_mem (descRead_mem s) [])).pollEnd none

/-! ### The header (R171) -/

/-- Bytes in wire order: each further one is the lowest of the number (20_memory.md R64). -/
theorem ofNat_shift_byte (w n : Nat) (b : Byte) : BitVec.ofNat (w + 8) (n * 256 + b.toNat) = BitVec.ofNat w n ++ b := by
  apply BitVec.eq_of_toNat_eq
  have hb := b.isLt
  rw [BitVec.toNat_append, ← Nat.shiftLeft_add_eq_or_of_lt hb, Nat.shiftLeft_eq, BitVec.toNat_ofNat, BitVec.toNat_ofNat, Nat.pow_add,
    Nat.mul_comm (2 ^ w), Nat.mod_mul, show (n * 256 + b.toNat) / 2 ^ 8 = n by omega]
  omega

theorem ofNat_beNat_two (a b : Byte) : BitVec.ofNat 16 (beNat 0 [a, b]) = a ++ b := by
  simp only [beNat]
  rw [ofNat_shift_byte 8]
  simp

theorem macOfBytes_six (a b c d e f : Byte) : macOfBytes [a, b, c, d, e, f] = a ++ b ++ c ++ d ++ e ++ f := by
  simp only [macOfBytes, beNat]
  rw [ofNat_shift_byte 40, ofNat_shift_byte 32, ofNat_shift_byte 24, ofNat_shift_byte 16, ofNat_shift_byte 8]
  simp

/-- A byte string cut or padded, byte by byte. -/
theorem padTo_eq : ∀ (n : Nat) (bs : List Byte), padTo n bs = (List.range n).map (fun k => bs.getD k 0)
  | 0, _ => rfl
  | n + 1, [] => by
    rw [padTo, padTo_eq n [], List.range_succ_eq_map, List.map_cons, List.map_map]
    rfl
  | n + 1, b :: bs => by
    rw [padTo, padTo_eq n bs, List.range_succ_eq_map, List.map_cons, List.map_map]
    rfl

theorem readBytes_getD (m : List (Nat × Byte)) : ∀ (n k : Nat) (a : Addr),
    (readBytes m a n).getD k 0 = if k < n then readByte m (a + BitVec.ofNat 64 k) else 0
  | 0, _, _ => rfl
  | n + 1, 0, a => by simp [readBytes]
  | n + 1, k + 1, a => by
    have hnext : a + 1 + BitVec.ofNat 64 k = a + BitVec.ofNat 64 (k + 1) := by
      rw [BitVec.add_assoc, BitVec.add_comm 1, BitVec.ofNat_add]
      rfl
    rw [readBytes, List.getD_cons_succ, readBytes_getD m n k (a + 1), hnext]
    simp only [Nat.add_lt_add_iff_right]

/-- The header's bytes are those of the receive buffer, 0 from the frame's end on. -/
theorem headerBytes_eq (s : State) (len : Half) (h : Nat → Byte)
    (hh : ∀ k, h k = if k < frameBytes s len then readByte s.mem ((s.rxBinding s.eng.rxC.toNat).va + BitVec.ofNat 64 k) else 0) :
    headerBytes s len = (List.range 14).map h := by
  rw [headerBytes, padTo_eq]
  refine List.map_congr_left fun k hk => ?_
  have hlt : k < min (frameBytes s len) 14 ↔ k < frameBytes s len := by
    rw [List.mem_range] at hk
    omega
  simp only [readBytes_getD, hlt, hh]

/-- What a header of the bytes `h` says. -/
theorem reportOf_map (c : Config) (h : Nat → Byte) (n : Nat) (len : Half) : reportOf c ((List.range 14).map h) n len =
    { dst := h 0 ++ h 1 ++ h 2 ++ h 3 ++ h 4 ++ h 5
      src := h 6 ++ h 7 ++ h 8 ++ h 9 ++ h 10 ++ h 11
      etype := h 12 ++ h 13
      copied := n
      length := len
      kind := classify c (h 0 ++ h 1 ++ h 2 ++ h 3 ++ h 4 ++ h 5) } := by
  rw [← macOfBytes_six, ← macOfBytes_six, ← ofNat_beNat_two]
  rfl

/-! ### A delivered frame (R170, R172) -/

/-- `s` before the header is read: the first `n` bytes of the frame of length `len` are copied to the caller, the descriptor read being
recorded, and the copy where there is one. -/
def State.frameCopied (s : State) (len : Half) (n : Nat) : State :=
  let src := (s.rxBinding s.eng.rxC.toNat).va
  { s.descRead with
    eng := { s.eng with rxTrunc := if n < len.toNat then s.eng.rxTrunc + 1 else s.eng.rxTrunc }
    mem := writeBytes s.mem s.regs.arg0 (readBytes s.mem src n)
    ports := (if 0 < n then [.copy s.regs.arg0 src n] else []) ++ s.descRead.ports }

/-- An accepted frame is copied, where a byte of it is wanted, before its header is read. -/
theorem copy_iterate {s : State} {d : RxRec} {n : Nat} {l : Latch} (hl : l = s.latch (encode .rxPoll))
    (hd : d = s.rxRecAt s.eng.rxC.toNat) (hdone : rxDone s.cfg d = true) (hlen : d.length ≠ 0) (herr : d.errors = 0)
    (hn : n = min (min d.length.toNat s.eng.b.toNat) s.regs.arg1.toNat) :
    ∃ k, k ≤ 2 ∧ State.engineTurn^[k] ((s.startCmd (encode .rxPoll)).goto l (.rx .read)) =
      (s.frameCopied d.length n).goto l (.rx (.header d.length n)) := by
  have hcount : copyCount l ((s.startCmd (encode .rxPoll)).goto l (.rx .read)) d.length = n := by
    rw [hl, hn]
    rfl
  have hread : ((s.startCmd (encode .rxPoll)).goto l (.rx .read)).engineTurn = pollRead l _ := rfl
  have hcopy (u : State) : (u.goto l (.rx (.copy d.length n))).engineTurn =
      pollCopy l d.length n (u.goto l (.rx (.copy d.length n))) := rfl
  obtain ⟨hnot, _⟩ | ⟨_, hbad, _⟩ | ⟨_, _, _, hpos, e⟩ | ⟨_, _, _, hzero, e⟩ :=
    pollRead_cases l ((s.startCmd (encode .rxPoll)).goto l (.rx .read)) d _ hd rfl
  · exact absurd (hdone.symm.trans hnot) (by decide)
  · exact absurd hbad (not_or.mpr ⟨hlen, not_not.mpr herr⟩)
  · refine ⟨2, le_rfl, ?_⟩
    rw [hcount] at hpos e
    rw [Function.iterate_succ_apply, hread, e, Function.iterate_succ_apply, hcopy, pollCopy, countTrunc_eq, State.frameCopied,
      if_pos hpos]
    subst hl
    rfl
  · refine ⟨1, by decide, ?_⟩
    rw [hcount] at hzero
    rw [Function.iterate_succ_apply, hread, e, countTrunc_eq, hzero]
    rfl

/-- The address of byte `k` of a buffer is in the buffer. -/
theorem inRange_add_ofNat (a : Addr) {k n : Nat} (hk : k < n) (hn : n ≤ 2 ^ 64) : inRange (a + BitVec.ofNat 64 k) a n := by
  rw [inRange, add_sub_cancel_left, BitVec.toNat_ofNat, Nat.mod_eq_of_lt (by omega)]
  exact hk

/-- The state in which RX.POLL ends on a frame of length `len` of which `n` bytes are copied, `r` being what it reports. -/
def State.delivered (s : State) (len : Half) (n : Nat) (r : RxReport) : State :=
  let u := s.frameCopied len n
  (u.memRead (u.rxBinding u.eng.rxC.toNat).va (min (frameBytes u len) 14)).rearmed.pollEnd (some r)

/-- RX.POLL of an accepted frame, as a whole: the header it reports is read after the copy. -/
theorem exec_rxPoll_delivers {s : State} {d : RxRec} {n : Nat} (hr : s.Ready) (hw : s.eng.hwInit = true) (hlegal : s.PollLegal)
    (hd : d = s.rxRecAt s.eng.rxC.toNat) (hdone : rxDone s.cfg d = true) (hlen : d.length ≠ 0) (herr : d.errors = 0)
    (hn : n = min (min d.length.toNat s.eng.b.toNat) s.regs.arg1.toNat) : exec .rxPoll s =
      .next (s.delivered d.length n (reportOf s.cfg (headerBytes (s.frameCopied d.length n) d.length) n d.length)) := by
  obtain ⟨k, hk, e⟩ := copy_iterate rfl hd hdone hlen herr hn
  refine exec_rxPoll hr hw hlegal (2 + (1 + k)) (by omega) ?_ rfl
  have hheader (l : Latch) (u : State) : (u.goto l (.rx (.header d.length n))).engineTurn =
      (u.memRead (u.rxBinding u.eng.rxC.toNat).va (min (frameBytes u d.length) 14)).goto l
        (.rx (.rearm (some (reportOf u.cfg (headerBytes u d.length) n d.length)))) := rfl
  rw [Function.iterate_add_apply, Function.iterate_add_apply, e, Function.iterate_one, hheader, rearm_iterate]
  rfl

section
variable {s : State} {n : Nat} (len : Half)

theorem frameCopied_mem : (s.frameCopied len n).mem =
    writeBytes s.mem s.regs.arg0 (readBytes s.mem (s.rxBinding s.eng.rxC.toNat).va n) := rfl

theorem frameCopied_wf (hm : memWf s.mem = true) : memWf (s.frameCopied len n).mem = true := writeBytes_wf _ hm _

theorem frameCopied_bytes : s.SameBytesBut (s.frameCopied len n) [(s.regs.arg0, n)] :=
  sameBytesBut_of_writeBytes (frameCopied_mem len) (readBytes_length _ _ _)

@[simp] theorem frameCopied_cfg : (s.frameCopied len n).cfg = s.cfg := rfl

@[simp] theorem frameCopied_rxC : (s.frameCopied len n).eng.rxC = s.eng.rxC := rfl

@[simp] theorem frameCopied_rxBinding (i : Nat) : (s.frameCopied len n).rxBinding i = s.rxBinding i := by
  simp [State.rxBinding, State.frameCopied]

theorem frameCopied_copy (hm : memWf s.mem = true) (hn : n ≤ 2 ^ 64) :
    readBytes (s.frameCopied len n).mem s.regs.arg0 n = readBytes s.mem (s.rxBinding s.eng.rxC.toNat).va n := by
  have hback := readBytes_writeBytes (readBytes s.mem (s.rxBinding s.eng.rxC.toNat).va n) hm s.regs.arg0
  rw [readBytes_length] at hback
  exact hback hn

/-- The header of the copied frame is that of the receive buffer, which the copy leaves. -/
theorem frameCopied_headerBytes {h : Nat → Byte}
    (hbuffer : ∀ a, inRange a (s.rxBinding s.eng.rxC.toNat).va s.eng.b.toNat → ¬ inRange a s.regs.arg0 n)
    (hh : ∀ k, h k = if k < min len.toNat s.eng.b.toNat then
      readByte s.mem ((s.rxBinding s.eng.rxC.toNat).va + BitVec.ofNat 64 k) else 0) :
    headerBytes (s.frameCopied len n) len = (List.range 14).map h := by
  refine headerBytes_eq _ _ h fun k => (hh k).trans ?_
  change _ = if k < min len.toNat s.eng.b.toNat then
    readByte (s.frameCopied len n).mem (((s.frameCopied len n).rxBinding s.eng.rxC.toNat).va + BitVec.ofNat 64 k) else 0
  rw [frameCopied_rxBinding]
  split
  next hk =>
    have hb := s.eng.b.isLt
    have hin := inRange_add_ofNat (s.rxBinding s.eng.rxC.toNat).va (Nat.lt_of_lt_of_le hk (Nat.min_le_right _ _)) (by omega)
    exact (frameCopied_bytes len _ (List.forall_mem_singleton.mpr (hbuffer _ hin))).symm
  next => rfl

end

section
variable {s : State} (len : Half) (n : Nat) (r : RxReport)

theorem delivered_regs : (s.delivered len n r).regs = { s.regs with
    res0 := r.dst.setWidth 64
    res1 := r.src.setWidth 64
    res2 := BitVec.ofNat 32 r.copied
    res3 := r.length.setWidth 32
    res4 := res4Word r.etype r.kind
    code := .success } := rfl

theorem delivered_eng : (s.delivered len n r).eng = { s.eng with
    seq := .idle
    rxC := adv s.eng.rxC s.eng.n
    rxTrunc := if n < len.toNat then s.eng.rxTrunc + 1 else s.eng.rxTrunc } := rfl

theorem delivered_mem : (s.delivered len n r).mem = writeBytes (s.frameCopied len n).mem (rxSlotAddr s.cfg s.eng.rxC.toNat)
    (descBytes (encodeRx s.cfg (rxInit (s.rxBinding s.eng.rxC.toNat).da))) := by
  simp [State.delivered, rearmed_mem]

theorem delivered_rxRecAt (hm : memWf s.mem = true) : (s.delivered len n r).rxRecAt s.eng.rxC.toNat =
    { addr := (s.rxBinding s.eng.rxC.toNat).da, length := 0, csum := 0, sta := 0, errors := 0, special := 0 } := by
  rw [State.delivered, pollEnd_rxRecAt, rearmed_rxRecAt (by exact frameCopied_wf len hm) (by rfl), memRead_rxBinding,
    frameCopied_rxBinding, rxInit]

theorem delivered_bytes : s.SameBytesBut (s.delivered len n r) [(s.regs.arg0, n), (rxSlotAddr s.cfg s.eng.rxC.toNat, 16)] :=
  (rearmed_bytes (frameCopied_bytes len)).pollEnd (some r)

end

/-- Settles O37: the copy leaves the receive buffer, the re-arm leaves the copied bytes. -/
theorem rxPollDeliversTheFrame : Obligations.RxPollDeliversTheFrame := by
  rintro s d b n h m hr hc hw hlegal hd rfl hdone hlen herr hapart hn hh rfl
  have hcount : n ≤ s.regs.arg1.toNat := hn ▸ Nat.min_le_right _ _
  have h64 : n ≤ 2 ^ 64 := by
    have := s.regs.arg1.isLt
    omega
  have hbuffer : ∀ a, inRange a (s.rxBinding s.eng.rxC.toNat).va s.eng.b.toNat → ¬ inRange a s.regs.arg0 n :=
    fun a ha hdst => (hapart a (Nat.lt_of_lt_of_le hdst hcount)).2 ha
  have hslot : ∀ a, inRange a s.regs.arg0 n → ¬ inRange a (rxSlotAddr s.cfg s.eng.rxC.toNat) 16 :=
    fun a ha => (hapart a (Nat.lt_of_lt_of_le ha hcount)).1
  have hexec := exec_rxPoll_delivers hr hw hlegal hd hdone hlen herr hn
  rw [frameCopied_headerBytes d.length hbuffer hh, reportOf_map] at hexec
  refine ⟨_, hexec, ⟨rfl, rfl, rfl, rfl, rfl⟩, ⟨rfl, rfl, rfl⟩, ?_, ?_, rfl, ?_, ?_, ?_⟩
  · rw [delivered_regs, res4Word_classify]
  · rw [delivered_eng, ← hr.idle]
    rfl
  · rw [delivered_mem, readBytes_writeBytes_out _ _ _ _ _ (by rwa [descBytes_length]) h64]
    exact frameCopied_copy d.length hc.mem h64
  · exact delivered_rxRecAt d.length n _ hc.mem
  · exact delivered_bytes d.length n _

end Sys2Proof.Machine

end

/-! ## LINK.WAIT (43_link.md R185 to R193)

With no cable detection the command ends at its decode. Otherwise its phases follow each other: the first window, the probe of the PHY,
DownshiftRetry. While the link is down a phase is a loop of reads with a delay between each two, and only adds to the record of port
actions; what ends a loop is the next phase's start or `linkFailed()`. -/

section

namespace Sys2Proof.Machine

/-- The latch of a LINK.WAIT has CD in its F0 bit (30_encoding.md R96). -/
theorem latch_f0_linkWait (s : State) (cd : Bool) : (s.latch (encode (.linkWait cd))).f0 = cd := f0Field_cmdWord _ _ _ _

/-- The polls of LINK.WAIT are in `stepBound`. -/
theorem le_stepBound_link {c : Config} {n : Nat}
    (h : n ≤ 524288 + 2 * c.linkPollCount + 2 * c.phyProbeCount + 2 * c.downshiftPollCount) : n ≤ stepBound c := by
  unfold stepBound
  omega

/-! ### The decode step and the reads, one equation per case (R185, R187, R188, R191) -/

theorem linkIsUp_iff (c : Config) (v : Word) : linkIsUp c v = true ↔ v &&& c.bLu ≠ 0 := bne_iff_ne

section
variable {l : Latch} {s : State}

theorem linkStart_noDetect (h : l.f0 = false) : linkStart l s = (s.setRes2 1).finish .success := if_neg (ne_true_of_eq_false h)

theorem linkStart_polls (h : l.f0 = true) (hpos : 0 < s.cfg.linkPollCount) :
    linkStart l s = (s.setLink .negotiating).goto l (.link (.read 0)) := (if_pos h).trans (if_pos hpos)

theorem linkStart_noPoll (h : l.f0 = true) (hzero : s.cfg.linkPollCount = 0) :
    linkStart l s = windowOver l (s.setLink .negotiating) := (if_pos h).trans (if_neg (Nat.not_lt.mpr hzero.le))

/-- A read of either window that sees the link up ends the poll. -/
theorem linkRead_up (k : Nat) (hup : s.nic.status &&& s.cfg.bLu ≠ 0) : linkRead l k s = linkUpSeen l (s.regRead .status) :=
  if_pos ((linkIsUp_iff _ _).mpr hup)

theorem linkRetryRead_up (k : Nat) (hup : s.nic.status &&& s.cfg.bLu ≠ 0) :
    linkRetryRead l k s = linkUpSeen l (s.regRead .status) := if_pos ((linkIsUp_iff _ _).mpr hup)

theorem not_linkIsUp (hdown : s.nic.status &&& s.cfg.bLu = 0) : ¬ linkIsUp s.cfg (s.regVal .status) = true :=
  fun h => (linkIsUp_iff _ _).mp h hdown

theorem linkRead_next {k : Nat} (hdown : s.nic.status &&& s.cfg.bLu = 0) (hk : k + 1 < s.cfg.linkPollCount) :
    linkRead l k s = (s.regRead .status).goto l (.link (.delay k)) := (if_neg (not_linkIsUp hdown)).trans (if_pos hk)

theorem linkRead_last {k : Nat} (hdown : s.nic.status &&& s.cfg.bLu = 0) (hk : ¬ k + 1 < s.cfg.linkPollCount) :
    linkRead l k s = windowOver l (s.regRead .status) := (if_neg (not_linkIsUp hdown)).trans (if_neg hk)

theorem linkRetryRead_next {k : Nat} (hdown : s.nic.status &&& s.cfg.bLu = 0) (hk : k + 1 < s.cfg.downshiftPollCount) :
    linkRetryRead l k s = (s.regRead .status).goto l (.link (.retryDelay (k + 1))) :=
  (if_neg (not_linkIsUp hdown)).trans (if_pos hk)

theorem linkRetryRead_last {k : Nat} (hdown : s.nic.status &&& s.cfg.bLu = 0) (hk : ¬ k + 1 < s.cfg.downshiftPollCount) :
    linkRetryRead l k s = linkFailed (s.regRead .status) := (if_neg (not_linkIsUp hdown)).trans (if_neg hk)

/-- A read of the PHY that shows the indicator ends the probe (R190). -/
theorem linkPhyRead_shows (k : Nat) (hphy : s.nic.phy &&& s.cfg.phyMask ≠ 0) : linkPhyRead l k s = startRetry l s.phyRead :=
  if_pos hphy

theorem linkPhyRead_next {k : Nat} (hphy : s.nic.phy &&& s.cfg.phyMask = 0) (hk : k + 1 < s.cfg.phyProbeCount) :
    linkPhyRead l k s = s.phyRead.goto l (.link (.phyDelay k)) := (if_neg (not_not.mpr hphy)).trans (if_pos hk)

theorem linkPhyRead_last {k : Nat} (hphy : s.nic.phy &&& s.cfg.phyMask = 0) (hk : ¬ k + 1 < s.cfg.phyProbeCount) :
    linkPhyRead l k s = linkFailed s.phyRead := (if_neg (not_not.mpr hphy)).trans (if_neg hk)

end

/-! ### No cable detection, and a link that is up (R189, R193) -/

/-- A LINK.WAIT on a block that can take it: it is over `k` steps of the engine after its rule has started. -/
theorem exec_linkWait {s t : State} {cd : Bool} (hr : s.Ready) (k : Nat)
    (hk : k + 1 ≤ 524288 + 2 * s.cfg.linkPollCount + 2 * s.cfg.phyProbeCount + 2 * s.cfg.downshiftPollCount)
    (h : State.engineTurn^[k] (linkStart (s.latch (encode (.linkWait cd))) (s.startCmd (encode (.linkWait cd)))) = t)
    (ht : t.eng.seq = .idle) : exec (.linkWait cd) s = .next t :=
  exec_ready (i := .linkWait cd) hr rfl (absurd · Bool.false_ne_true) k (le_stepBound_link hk) h ht

/-- Settles O38: the decode step ends the command. -/
theorem linkWaitWithoutCableDetect : Obligations.LinkWaitWithoutCableDetect := by
  intro s hr
  rw [exec_linkWait hr 0 (by omega) (linkStart_noDetect (latch_f0_linkWait s false)) rfl]
  exact congrArg (fun q => Host.Outcome.next { s with
    eng := { s.eng with seq := q }
    regs := { s.regs.ended .success with res2 := 1 } }) hr.idle.symm

/-- `t` after the port actions `ps`, newest first. -/
def State.noted (t : State) (ps : List PortAction) : State := { t with ports := ps ++ t.ports }

/-- Once the link is seen up, the settle delay is the one step that may be left (R189). -/
theorem linkUpSeen_ends (l : Latch) (t : State) : ∃ j ≤ 1, State.engineTurn^[j] (linkUpSeen l t) =
    linkUpDone (t.noted (if 0 < t.cfg.linkSettleUs then [.delay t.cfg.linkSettleUs] else [])) := by
  obtain ⟨hsettle, e⟩ | ⟨hnone, e⟩ := linkUpSeen_cases l t
  · refine ⟨1, le_rfl, ?_⟩
    rw [e, if_pos hsettle]
    rfl
  · refine ⟨0, Nat.zero_le _, ?_⟩
    rw [if_neg (Nat.not_lt.mpr hnone.le)]
    exact e

/-- LINK.WAIT with a link that is up: the first read sees it. -/
theorem exec_linkWait_up {s : State} (hr : s.Ready) (hpos : 0 < s.cfg.linkPollCount) (hup : s.nic.status &&& s.cfg.bLu ≠ 0) :
    exec (.linkWait true) s = .next { s with
      eng := { s.eng with seq := .idle, link := .linkUp }
      regs := { s.regs.ended .success with res2 := 1 }
      ports := (if 0 < s.cfg.linkSettleUs then [PortAction.delay s.cfg.linkSettleUs] else []) ++
        .regRead s.cfg.oStatus s.nic.status :: s.ports } := by
  have hstart := linkStart_polls (s := s.startCmd (encode (.linkWait true))) (latch_f0_linkWait s true) hpos
  have hread (l : Latch) (t : State) (ht : t.nic.status &&& t.cfg.bLu ≠ 0) :
      (t.goto l (.link (.read 0))).engineTurn = linkUpSeen l ((t.goto l (.link (.read 0))).regRead .status) := linkRead_up 0 ht
  obtain ⟨j, hj, hend⟩ := linkUpSeen_ends (s.latch (encode (.linkWait true)))
    ((((s.startCmd (encode (.linkWait true))).setLink .negotiating).goto _ (.link (.read 0))).regRead .status)
  refine exec_linkWait hr (j + 1) (by omega) ?_ rfl
  rw [hstart, Function.iterate_succ_apply, hread _ _ (by exact hup), hend]
  rfl

/-- A read of either window that sees the link up goes on to the settle delay, or ends the command. -/
theorem engineStep_read_up (l : Latch) {p : LinkPoint} {k : Nat} {s : State} (hp : p = .read k ∨ p = .retryRead k)
    (hup : s.nic.status &&& s.cfg.bLu ≠ 0) : engineStep l (.link p) s = linkUpSeen l (s.regRead .status) := by
  obtain rfl | rfl := hp
  · exact linkRead_up k hup
  · exact linkRetryRead_up k hup

/-- Settles O39: each position's equation, the settle delay being there or not. -/
theorem linkWaitSeesTheLinkUp : Obligations.LinkWaitSeesTheLinkUp := by
  refine ⟨fun s hr hpos hup => ?_, fun l p k s hp hup => ⟨fun hsettle => ?_, fun hnone => ?_⟩, fun _ _ => rfl,
    fun l k s hdown => ⟨linkRead_next hdown, linkRetryRead_next hdown⟩, fun _ _ _ => ⟨rfl, rfl⟩⟩
  · rw [exec_linkWait_up hr hpos hup, ← hr.idle]
  · exact (engineStep_read_up l hp hup).trans (if_pos hsettle)
  · exact (engineStep_read_up l hp hup).trans (if_neg (Nat.not_lt.mpr hnone.le))

/-! ### Loops of reads that only add to the record of port actions (00_scope.md R14) -/

/-- From `t` on, the read at `R k` goes on to the delay at `D k` while reads are left, the delay to the next read, and the last of the `N`
reads goes on to `leave`. -/
structure PollLoop (l : Latch) (t : State) (R D : Nat → Point) (read : PortAction) (us N : Nat) (leave : State → State) : Prop where
  next : ∀ k ps, k + 1 < N → ((t.noted ps).goto l (R k)).engineTurn = (t.noted (read :: ps)).goto l (D k)
  delay : ∀ k ps, ((t.noted ps).goto l (D k)).engineTurn = (t.noted (.delay us :: ps)).goto l (R (k + 1))
  last : ∀ k ps, ¬ k + 1 < N → ((t.noted ps).goto l (R k)).engineTurn = leave (t.noted (read :: ps))

section
variable {l : Latch} {t : State} {R D : Nat → Point} {read : PortAction} {us N : Nat} {leave : State → State}

/-- From any of its reads on, the loop makes the reads that are left. -/
theorem PollLoop.iterate_from (h : PollLoop l t R D read us N leave) (n k : Nat) (ps : List PortAction) (hk : k + (n + 1) = N) :
    State.engineTurn^[2 * n + 1] ((t.noted ps).goto l (R k)) = leave (t.noted (pollPorts read us (n + 1) ++ ps)) := by
  induction n generalizing k ps with
  | zero => exact h.last k ps (by omega)
  | succ n ih =>
    rw [show 2 * (n + 1) + 1 = 2 * n + 1 + 1 + 1 by omega, Function.iterate_succ_apply, h.next k ps (by omega),
      Function.iterate_succ_apply, h.delay, ih (k + 1) _ (by omega), pollPorts_append]

/-- The whole loop. -/
theorem PollLoop.iterate (h : PollLoop l t R D read us N leave) (hpos : 0 < N) (ps : List PortAction) :
    State.engineTurn^[2 * (N - 1) + 1] ((t.noted ps).goto l (R 0)) = leave (t.noted (pollPorts read us N ++ ps)) := by
  obtain ⟨n, rfl⟩ : ∃ n, N = n + 1 := Nat.exists_eq_add_one.mpr hpos
  exact h.iterate_from n 0 ps (Nat.zero_add _)

end

/-! ### A link that stays down (R188, R190 to R192) -/

/-- How often DownshiftRetry reads `O_STATUS` while the link is down: not at all unless the PHY showed the indicator (R190, R191). -/
def State.retryCount (t : State) : Nat :=
  if t.cfg.phyDownshift = true ∧ t.nic.phy &&& t.cfg.phyMask ≠ 0 ∧ 0 < t.cfg.phyProbeCount then t.cfg.downshiftPollCount else 0

/-- How often the probe reads the PHY (R190). -/
def State.probeCount (t : State) : Nat :=
  if t.cfg.phyDownshift = false then 0
  else if t.nic.phy &&& t.cfg.phyMask ≠ 0 then min 1 t.cfg.phyProbeCount else t.cfg.phyProbeCount

/-- The read of `O_STATUS`. -/
def State.statusRead (t : State) : PortAction := .regRead t.cfg.oStatus t.nic.status

/-- What `n` rounds of DownshiftRetry leave in the record of port actions. -/
def State.retryPorts (t : State) (n : Nat) : List PortAction :=
  (List.replicate n [t.statusRead, .delay t.cfg.downshiftPollUs]).flatten

/-- What the phases after the first window leave there. -/
def State.recoveryPorts (t : State) : List PortAction :=
  t.retryPorts t.retryCount ++ pollPorts (.phyRead t.nic.phy) t.cfg.phyProbeUs t.probeCount

section
variable {t : State}

theorem retryCount_of_shown (hshift : t.cfg.phyDownshift = true) (hphy : t.nic.phy &&& t.cfg.phyMask ≠ 0)
    (hpos : 0 < t.cfg.phyProbeCount) : t.retryCount = t.cfg.downshiftPollCount := if_pos ⟨hshift, hphy, hpos⟩

theorem retryCount_of_not_shown
    (h : t.cfg.phyDownshift = false ∨ t.nic.phy &&& t.cfg.phyMask = 0 ∨ t.cfg.phyProbeCount = 0) : t.retryCount = 0 := by
  refine if_neg fun ⟨hshift, hphy, hpos⟩ => ?_
  obtain hno | hno | hno := h
  · exact Bool.false_ne_true (hno.symm.trans hshift)
  · exact hphy hno
  · exact hpos.ne' hno

theorem probeCount_of_shown (hshift : t.cfg.phyDownshift = true) (hphy : t.nic.phy &&& t.cfg.phyMask ≠ 0)
    (hpos : 0 < t.cfg.phyProbeCount) : t.probeCount = 1 := by
  rw [State.probeCount, if_neg (by simp [hshift]), if_pos hphy, Nat.min_eq_left hpos]

theorem probeCount_of_not_shown (hshift : t.cfg.phyDownshift = true) (hphy : t.nic.phy &&& t.cfg.phyMask = 0) :
    t.probeCount = t.cfg.phyProbeCount := by
  rw [State.probeCount, if_neg (by simp [hshift]), if_neg (not_not.mpr hphy)]

theorem probeCount_of_no_probe (h : t.cfg.phyDownshift = false ∨ t.cfg.phyProbeCount = 0) : t.probeCount = 0 := by
  obtain h | h := h <;> simp [State.probeCount, h]

/-- R194's bounds of the two counts. -/
theorem retryCount_le (t : State) : t.retryCount ≤ t.cfg.downshiftPollCount := by
  unfold State.retryCount
  split
  · exact le_rfl
  · exact Nat.zero_le _

theorem probeCount_le (t : State) : t.probeCount ≤ t.cfg.phyProbeCount := by
  unfold State.probeCount
  split_ifs
  · exact Nat.zero_le _
  · exact Nat.min_le_right _ _
  · exact le_rfl

end

theorem retryPorts_retryCount (t : State) : t.retryPorts t.retryCount =
    if t.cfg.phyDownshift = true ∧ t.nic.phy &&& t.cfg.phyMask ≠ 0 ∧ 0 < t.cfg.phyProbeCount then
      t.retryPorts t.cfg.downshiftPollCount else [] :=
  apply_ite t.retryPorts _ _ _

/-- A round is a delay and a read: the reads with a delay between them, after one delay. -/
theorem retryPorts_succ (t : State) : ∀ n, t.retryPorts (n + 1) =
    pollPorts t.statusRead t.cfg.downshiftPollUs (n + 1) ++ [.delay t.cfg.downshiftPollUs]
  | 0 => rfl
  | n + 1 => congrArg (fun qs => t.statusRead :: .delay t.cfg.downshiftPollUs :: qs) (retryPorts_succ t n)

section
variable {t : State} (l : Latch)

theorem window_pollLoop (hdown : t.nic.status &&& t.cfg.bLu = 0) : PollLoop l t (fun k => .link (.read k))
    (fun k => .link (.delay k)) t.statusRead t.cfg.linkPollUs t.cfg.linkPollCount (windowOver l) where
  next _ _ hk := linkRead_next hdown hk
  delay _ _ := rfl
  last _ _ hk := linkRead_last hdown hk

theorem probe_pollLoop (hphy : t.nic.phy &&& t.cfg.phyMask = 0) : PollLoop l t (fun k => .link (.phyRead k))
    (fun k => .link (.phyDelay k)) (.phyRead t.nic.phy) t.cfg.phyProbeUs t.cfg.phyProbeCount linkFailed where
  next _ _ hk := linkPhyRead_next hphy hk
  delay _ _ := rfl
  last _ _ hk := linkPhyRead_last hphy hk

theorem retry_pollLoop (hdown : t.nic.status &&& t.cfg.bLu = 0) : PollLoop l t (fun k => .link (.retryRead k))
    (fun k => .link (.retryDelay (k + 1))) t.statusRead t.cfg.downshiftPollUs t.cfg.downshiftPollCount linkFailed where
  next _ _ hk := linkRetryRead_next hdown hk
  delay _ _ := rfl
  last _ _ hk := linkRetryRead_last hdown hk

/-- DownshiftRetry makes all its rounds. -/
theorem startRetry_fails (hdown : t.nic.status &&& t.cfg.bLu = 0) : ∃ j ≤ 2 * t.cfg.downshiftPollCount,
    State.engineTurn^[j] (startRetry l t) = linkFailed (t.noted (t.retryPorts t.cfg.downshiftPollCount)) := by
  obtain ⟨hpos, e⟩ | ⟨hzero, e⟩ := startRetry_cases l t
  · obtain ⟨n, hn⟩ : ∃ n, t.cfg.downshiftPollCount = n + 1 := Nat.exists_eq_add_one.mpr hpos
    have hdelay : ((t.setLink .downshiftRetry).goto l (.link (.retryDelay 0))).engineTurn =
        ((t.setLink .downshiftRetry).noted [.delay t.cfg.downshiftPollUs]).goto l (.link (.retryRead 0)) := rfl
    have hloop := (retry_pollLoop (t := t.setLink .downshiftRetry) l hdown).iterate hpos [.delay t.cfg.downshiftPollUs]
    refine ⟨2 * (t.cfg.downshiftPollCount - 1) + 1 + 1, by omega, ?_⟩
    rw [e, Function.iterate_succ_apply, hdelay, hn, retryPorts_succ, ← hn]
    exact hloop
  · refine ⟨0, Nat.zero_le _, ?_⟩
    rw [hzero]
    exact e

/-- After the first window the command fails in the end: at once, after a probe without the indicator, or after DownshiftRetry. -/
theorem windowOver_fails (hdown : t.nic.status &&& t.cfg.bLu = 0) :
    ∃ j ≤ 2 * t.cfg.phyProbeCount + 2 * t.cfg.downshiftPollCount,
      State.engineTurn^[j] (windowOver l t) = linkFailed (t.noted t.recoveryPorts) := by
  obtain ⟨hshift, hpos, e⟩ | ⟨hnone, e⟩ := windowOver_cases l t
  · by_cases hphy : t.nic.phy &&& t.cfg.phyMask = 0
    · have hloop := (probe_pollLoop l hphy).iterate hpos []
      refine ⟨2 * (t.cfg.phyProbeCount - 1) + 1, by omega, ?_⟩
      rw [e, State.recoveryPorts, retryCount_of_not_shown (.inr (.inl hphy)), probeCount_of_not_shown hshift hphy]
      rw [List.append_nil] at hloop
      exact hloop
    · obtain ⟨j, hj, hfail⟩ := startRetry_fails (t := (t.goto l (.link (.phyRead 0))).phyRead) l hdown
      have hread : (t.goto l (.link (.phyRead 0))).engineTurn = startRetry l (t.goto l (.link (.phyRead 0))).phyRead :=
        linkPhyRead_shows 0 hphy
      refine ⟨j + 1, ?_, ?_⟩
      · change j ≤ 2 * t.cfg.downshiftPollCount at hj
        omega
      · rw [e, Function.iterate_succ_apply, hread, hfail, State.recoveryPorts, retryCount_of_shown hshift hphy hpos,
          probeCount_of_shown hshift hphy hpos]
        simp only [State.noted, pollPorts, List.append_assoc]
        rfl
  · refine ⟨0, Nat.zero_le _, ?_⟩
    rw [State.recoveryPorts, retryCount_of_not_shown (hnone.imp_right .inr), probeCount_of_no_probe hnone]
    exact e

end

/-- What LINK.WAIT leaves in the record of port actions when the link stays down. -/
def State.linkPorts (s : State) : List PortAction :=
  s.recoveryPorts ++ pollPorts s.statusRead s.cfg.linkPollUs s.cfg.linkPollCount

/-- LINK.WAIT with a link that stays down: the first window, then what comes after it. -/
theorem linkStart_fails {l : Latch} {t : State} (hcd : l.f0 = true) (hdown : t.nic.status &&& t.cfg.bLu = 0) :
    ∃ j ≤ 2 * t.cfg.linkPollCount + 2 * t.cfg.phyProbeCount + 2 * t.cfg.downshiftPollCount,
      State.engineTurn^[j] (linkStart l t) = linkFailed (t.noted t.linkPorts) := by
  obtain ⟨j, hj, hfail⟩ := windowOver_fails l
    (t := (t.setLink .negotiating).noted (pollPorts t.statusRead t.cfg.linkPollUs t.cfg.linkPollCount)) hdown
  have hend : State.engineTurn^[j] (windowOver l
      ((t.setLink .negotiating).noted (pollPorts t.statusRead t.cfg.linkPollUs t.cfg.linkPollCount))) =
      linkFailed (t.noted t.linkPorts) := by
    rw [hfail, State.noted, State.noted, State.noted, State.linkPorts, List.append_assoc]
    rfl
  change j ≤ 2 * t.cfg.phyProbeCount + 2 * t.cfg.downshiftPollCount at hj
  obtain hzero | hpos := Nat.eq_zero_or_pos t.cfg.linkPollCount
  · refine ⟨j, by omega, ?_⟩
    rw [linkStart_noPoll hcd hzero, ← hend, hzero]
    rfl
  · have hloop := (window_pollLoop (t := t.setLink .negotiating) l hdown).iterate hpos []
    rw [List.append_nil] at hloop
    refine ⟨j + (2 * (t.cfg.linkPollCount - 1) + 1), by omega, ?_⟩
    rw [linkStart_polls hcd hpos, Function.iterate_add_apply, ← hend]
    exact congrArg State.engineTurn^[j] hloop

/-- How often each action of a failing LINK.WAIT stands in the record of port actions. -/
theorem countP_linkPorts (s : State) (p : PortAction → Bool) : s.linkPorts.countP p =
    s.retryCount * ((if p s.statusRead then 1 else 0) + (if p (.delay s.cfg.downshiftPollUs) then 1 else 0)) +
    ((if p (.phyRead s.nic.phy) then s.probeCount else 0) + (if p (.delay s.cfg.phyProbeUs) then s.probeCount - 1 else 0)) +
    ((if p s.statusRead then s.cfg.linkPollCount else 0) + (if p (.delay s.cfg.linkPollUs) then s.cfg.linkPollCount - 1 else 0)) := by
  have hretry : (s.retryPorts s.retryCount).countP p = s.retryCount *
      ((if p s.statusRead then 1 else 0) + (if p (.delay s.cfg.downshiftPollUs) then 1 else 0)) := by
    rw [State.retryPorts, List.countP_flatten, List.map_replicate, List.sum_replicate, smul_eq_mul, List.countP_cons,
      List.countP_singleton, Nat.add_comm]
  rw [State.linkPorts, State.recoveryPorts, List.countP_append, List.countP_append, countP_pollPorts, countP_pollPorts, hretry]

theorem mem_linkPorts {s : State} {a : PortAction} (ha : a ∈ s.linkPorts) :
    a = s.statusRead ∨ a = .phyRead s.nic.phy ∨ a.isDelay = true := by
  rw [State.linkPorts, State.recoveryPorts, List.mem_append, List.mem_append] at ha
  obtain (hretry | hprobe) | hwindow := ha
  · obtain ⟨qs, hqs, ha⟩ := List.mem_flatten.mp hretry
    rw [List.eq_of_mem_replicate hqs, List.mem_pair] at ha
    obtain rfl | rfl := ha
    · exact .inl rfl
    · exact .inr (.inr rfl)
  · obtain rfl | rfl := mem_pollPorts hprobe
    · exact .inr (.inl rfl)
    · exact .inr (.inr rfl)
  · obtain rfl | rfl := mem_pollPorts hwindow
    · exact .inl rfl
    · exact .inr (.inr rfl)

/-- LINK.WAIT with a link that stays down, as a whole. -/
theorem exec_linkWait_down {s : State} (hr : s.Ready) (hdown : s.nic.status &&& s.cfg.bLu = 0) :
    exec (.linkWait true) s = .next { s with
      eng := { s.eng with link := .failed }
      regs := s.regs.ended .timeout
      ports := s.linkPorts ++ s.ports } := by
  obtain ⟨j, hj, hfail⟩ := linkStart_fails (t := s.startCmd (encode (.linkWait true))) (latch_f0_linkWait s true) hdown
  change j ≤ 2 * s.cfg.linkPollCount + 2 * s.cfg.phyProbeCount + 2 * s.cfg.downshiftPollCount at hj
  rw [exec_linkWait hr j (by omega) hfail rfl]
  exact congrArg (fun q => Host.Outcome.next { s with
    eng := { s.eng with seq := q, link := .failed }
    regs := s.regs.ended .timeout
    ports := s.linkPorts ++ s.ports }) hr.idle.symm

section
variable (s : State)

theorem countP_isRead_linkPorts : s.linkPorts.countP (fun a => a.isRead) = s.retryCount + s.probeCount + s.cfg.linkPollCount := by
  simp [countP_linkPorts, State.statusRead, PortAction.isRead]

theorem countP_isDelay_linkPorts :
    s.linkPorts.countP (fun a => a.isDelay) = s.retryCount + (s.probeCount - 1) + (s.cfg.linkPollCount - 1) := by
  simp [countP_linkPorts, State.statusRead, PortAction.isDelay]

theorem countP_phyRead_linkPorts : s.linkPorts.countP (fun a => a == .phyRead s.nic.phy) = s.probeCount := by
  simp [countP_linkPorts, State.statusRead]

theorem countP_statusRead_linkPorts :
    s.linkPorts.countP (fun a => a == s.statusRead) = s.retryCount + s.cfg.linkPollCount := by
  simp [countP_linkPorts, State.statusRead]

end

/-- Settles O40: the record of port actions is that of the phases; its counts are theirs. -/
theorem linkWaitGivesUp : Obligations.LinkWaitGivesUp := by
  intro s hr hdown
  have hretry := retryCount_le s
  have hprobe := probeCount_le s
  refine ⟨s.linkPorts, exec_linkWait_down hr hdown, ?_, ?_, fun a => mem_linkPorts, ?_, countP_phyRead_linkPorts s, ?_, ?_⟩
  · rw [countP_isRead_linkPorts]
    omega
  · rw [countP_isDelay_linkPorts]
    omega
  · rw [State.linkPorts, State.recoveryPorts, retryPorts_retryCount]
    rfl
  · intro hshift hphy hpos
    have hcount := countP_statusRead_linkPorts s
    rw [retryCount_of_shown hshift hphy hpos, Nat.add_comm] at hcount
    exact hcount
  · intro h
    have hcount := countP_statusRead_linkPorts s
    rw [retryCount_of_not_shown h, Nat.zero_add] at hcount
    exact hcount

end Sys2Proof.Machine
end

/-! ## The start and the stop of a queue (45_lifecycle.md R211 to R220)

Where the engine's own steps lead is said without a count of the steps: a command ends in the one idle state they lead to. The two
procedures are said for both queues and for every position they return to; what they leave of the receive queue is written out. -/

section

namespace Sys2Proof.Machine

/-! ### Where the engine's own steps lead -/

/-- The engine's own steps lead from `s` to `t`. -/
def State.Leads (s t : State) : Prop := ∃ k, State.engineTurn^[k] s = t

section
variable {s t u : State}

theorem State.Leads.refl (s : State) : s.Leads s := ⟨0, rfl⟩

theorem State.Leads.trans (hst : s.Leads t) (htu : t.Leads u) : s.Leads u := by
  obtain ⟨j, rfl⟩ := hst
  obtain ⟨k, rfl⟩ := htu
  exact ⟨k + j, Function.iterate_add_apply _ k j s⟩

/-- One step, and where the engine's steps lead from there. -/
theorem State.Leads.head (hst : s.engineTurn = t) (htu : t.Leads u) : s.Leads u := State.Leads.trans ⟨1, hst⟩ htu

theorem State.Leads.outer (h : s.Leads t) : s.SameOuter t := by
  obtain ⟨k, rfl⟩ := h
  exact iterate_outer k s

/-- The engine's steps lead to one idle state at most. -/
theorem iterate_idle_unique {m n : Nat} (hmn : m ≤ n) (hm : (State.engineTurn^[m] s).eng.seq = .idle) :
    State.engineTurn^[n] s = State.engineTurn^[m] s := by
  obtain ⟨j, rfl⟩ := Nat.exists_eq_add_of_le hmn
  rw [Nat.add_comm, Function.iterate_add_apply]
  exact Function.iterate_fixed (engineTurn_idle hm) j

theorem State.Leads.idle_unique (ht : s.Leads t) (hu : s.Leads u) (hti : t.eng.seq = .idle) (hui : u.eng.seq = .idle) : t = u := by
  obtain ⟨m, rfl⟩ := ht
  obtain ⟨n, rfl⟩ := hu
  obtain h | h := Nat.le_total m n
  · exact (iterate_idle_unique h hti).symm
  · exact iterate_idle_unique h hui

/-- A well-formed command on a block that can take it leaves the idle state to which its rule leads: every command ends (R273). -/
theorem exec_leads (hr : s.Ready) {i : Instr} (hwf : i.wf = true) (hi : i.needsInit = true → s.eng.hwInit = true)
    (h : (startInstr (s.latch (encode i)) i (s.startCmd (encode i))).Leads t) (ht : t.eng.seq = .idle) : exec i s = .next t := by
  have hdecode : (s.startCmd (encode i)).engineTurn = startInstr (s.latch (encode i)) i (s.startCmd (encode i)) :=
    decodeStep_command hr.fault (decodeOfEncode i hwf) hi
  have hdrive : (s.startCmd (encode i)).Leads (s.startCmd (encode i)).drive :=
    ⟨_, (run_quiet (_ + stepBound s.cfg) (s.startCmd (encode i)) hr.inputs hr.lock).symm⟩
  have hidle : (s.startCmd (encode i)).drive.eng.seq = .idle := by
    have hsettled := startCmd_drive_settled hr.cfg (encode i)
    cases hq : (s.startCmd (encode i)).drive.eng.seq with
    | idle => rfl
    | running l p => exact absurd (hsettled.symm.trans (not_settled_running hq (hdrive.outer.lockOther.trans hr.lock))) (by decide)
  rw [exec_eq]
  obtain ⟨hc, _⟩ | ⟨_, _, e⟩ | ⟨_, hq, _⟩ := issueWord_cases (encode i) s
  · exact absurd (hr.cfg.symm.trans hc) (by decide)
  · rw [e, hdrive.idle_unique (.head hdecode h) hidle ht]
  · exact absurd hr.idle hq

end

/-! ### Read-modify-writes, and what the NIC acknowledges (R211) -/

/-- `t` after the read-modify-write of a NIC register by `f`. -/
def State.regModify (t : State) (r : NicReg) (f : Word → Word) : State := (t.regRead r).regWrite r (f (t.regVal r))

/-- The status enable bit of a queue (20_memory.md R83). -/
def Nic.queueOn (d : Nic) : Queue → Bool
  | .rx => d.rxqOn
  | .tx => d.txqOn

/-- Is a start of the queue acknowledged, or none asked for, when the NIC takes no step? -/
def State.startAcked (t : State) (q : Queue) : Bool :=
  !t.cfg.queueHandshake || (decide (0 < t.cfg.queuePollCount) && t.nic.queueOn q)

/-- Is a stop of the queue acknowledged, or none asked for, when the NIC takes no step? -/
def State.stopAcked (t : State) (q : Queue) : Bool :=
  !t.cfg.queueHandshake || (decide (0 < t.cfg.queuePollCount) && !t.nic.queueOn q)

theorem queueWord_or (c : Config) (w : Word) (on : Bool) : queueWord c w on ||| c.bQen = w ||| c.bQen := by
  ext i
  cases on <;> cases h : c.bQen[i] <;> simp [queueWord, h]

theorem queueWord_and_not (c : Config) (w : Word) (on : Bool) : queueWord c w on &&& ~~~c.bQen = w &&& ~~~c.bQen := by
  ext i
  cases on <;> cases h : c.bQen[i] <;> simp [queueWord, h]

theorem queueWord_and (c : Config) (w : Word) (on : Bool) : queueWord c w on &&& c.bQen = if on then c.bQen else 0 := by
  ext i
  cases on <;> cases h : c.bQen[i] <;> simp [queueWord, h]

/-- A queue-control register shows the status enable bit (20_memory.md R83). -/
theorem regVal_queueReg_and (t : State) (q : Queue) :
    t.regVal (queueReg q) &&& t.cfg.bQen = if t.nic.queueOn q then t.cfg.bQen else 0 := by
  cases q <;> exact queueWord_and _ _ _

theorem regVal_queueReg_off {t : State} {q : Queue} (h : t.nic.queueOn q = false) :
    t.regVal (queueReg q) &&& t.cfg.bQen = 0 := by
  rw [regVal_queueReg_and, h]
  rfl

theorem regVal_queueReg_on {t : State} {q : Queue} (hb : t.cfg.bQen ≠ 0) (h : t.nic.queueOn q = true) :
    t.regVal (queueReg q) &&& t.cfg.bQen ≠ 0 := by
  rw [regVal_queueReg_and, h]
  exact hb

/-! ### The handshake (R211) -/

/-- The read of the queue-control register that `queueOn` and `queueOff` repeat. -/
def State.queueRead (t : State) (q : Queue) : PortAction := .regRead (regOffset t.cfg (queueReg q)) (t.regVal (queueReg q))

/-- `t` after `n` of these reads. -/
def State.polled (t : State) (q : Queue) (n : Nat) : State := t.noted (pollPorts (t.queueRead q) t.cfg.queuePollUs n)

/-- How many of them there are. -/
def State.pollReads (t : State) (acked : Bool) : Nat := if acked then 1 else t.cfg.queuePollCount

/-- `t` after `queueOn` or `queueOff`, which makes the request by `f`. -/
def State.handshake (t : State) (q : Queue) (f : Word → Word) (acked : Bool) : State :=
  (t.regModify (queueReg q) f).polled q (t.pollReads acked)

section
variable (l : Latch) (q : Queue) (r : Return) {t : State}

theorem onPoll_pollLoop (hoff : t.nic.queueOn q = false) : PollLoop l t (fun k => .queue (.onPoll q k r))
    (fun k => .queue (.onDelay q k r)) (t.queueRead q) t.cfg.queuePollUs t.cfg.queuePollCount (returnTo l r true) where
  next _ _ hk := (if_neg (not_not.mpr (regVal_queueReg_off (t := t) hoff))).trans (if_pos hk)
  delay _ _ := rfl
  last _ _ hk := ((if_neg (not_not.mpr (regVal_queueReg_off (t := t) hoff))).trans (if_neg hk)).trans (by cases r <;> rfl)

theorem offPoll_pollLoop (hb : t.cfg.bQen ≠ 0) (hon : t.nic.queueOn q = true) : PollLoop l t (fun k => .queue (.offPoll q k r))
    (fun k => .queue (.offDelay q k r)) (t.queueRead q) t.cfg.queuePollUs t.cfg.queuePollCount (returnTo l r true) where
  next _ _ hk := (if_neg (regVal_queueReg_on (t := t) hb hon)).trans (if_pos hk)
  delay _ _ := rfl
  last _ _ hk := ((if_neg (regVal_queueReg_on (t := t) hb hon)).trans (if_neg hk)).trans (by cases r <;> rfl)

theorem onPoll_found (hb : t.cfg.bQen ≠ 0) (hon : t.nic.queueOn q = true) : (t.goto l (.queue (.onPoll q 0 r))).engineTurn =
    (t.polled q 1).goto l (.queue (.enableRead q r)) := if_pos (regVal_queueReg_on (t := t) hb hon)

theorem offPoll_found (hoff : t.nic.queueOn q = false) : (t.goto l (.queue (.offPoll q 0 r))).engineTurn =
    returnTo l r false (t.polled q 1) := (if_pos (regVal_queueReg_off (t := t) hoff)).trans (by cases r <;> rfl)

/-- The loops from the first read on; no note stands before it. -/
theorem PollLoop.leads {R D : Nat → Point} {read : PortAction} {us N : Nat} {leave : State → State}
    (h : PollLoop l t R D read us N leave) (hpos : 0 < N) : (t.goto l (R 0)).Leads (leave (t.noted (pollPorts read us N))) := by
  have hloop := h.iterate hpos []
  rw [List.append_nil] at hloop
  exact ⟨_, hloop⟩

@[simp] theorem regModify_cfg (r : NicReg) (f : Word → Word) : (t.regModify r f).cfg = t.cfg := rfl

@[simp] theorem regModify_queueOn (r : NicReg) (f : Word → Word) : (t.regModify r f).nic.queueOn q = t.nic.queueOn q := by
  cases q <;> cases r <;> rfl

theorem returnTo_goto (p : Point) (b : Bool) : returnTo l r b (t.goto l p) = returnTo l r b t := by
  cases r <;> rfl

/-- The polls after the request, whatever the read is that shows the acknowledgement: none at all, the one read that shows it, or all
the reads. -/
theorem polls_leads {R D : Nat → Point} {on : Bool} {found : State} (hfound : on = true → (t.goto l (R 0)).engineTurn = found)
    (hloop : on = false → PollLoop l t R D (t.queueRead q) t.cfg.queuePollUs t.cfg.queuePollCount (returnTo l r true)) :
    (if 0 < t.cfg.queuePollCount then t.goto l (R 0) else returnTo l r true t).Leads
      (if decide (0 < t.cfg.queuePollCount) && on then found else returnTo l r true (t.polled q t.cfg.queuePollCount)) := by
  obtain hzero | hpos := Nat.eq_zero_or_pos t.cfg.queuePollCount
  · rw [State.polled, hzero]
    exact .refl _
  · rw [if_pos hpos, decide_eq_true hpos, Bool.true_and]
    cases on with
    | true => exact .head (hfound rfl) (.refl _)
    | false => exact (hloop rfl).leads l hpos

/-- The turn that makes the request of `queueOn`. -/
theorem onWrite_turn : ((t.regRead (queueReg q)).goto l (.queue (.onWrite q (t.regVal (queueReg q)) r))).engineTurn =
    if 0 < t.cfg.queuePollCount then (t.regModify (queueReg q) (· ||| t.cfg.bQen)).goto l (.queue (.onPoll q 0 r))
    else returnTo l r true (t.regModify (queueReg q) (· ||| t.cfg.bQen)) := by
  rw [← returnTo_goto]
  rfl

/-- `queueOn` (R211). -/
theorem queueOn_leads (hb : t.cfg.bQen ≠ 0) (hs : t.cfg.queueHandshake = true) : (t.goto l (.queue (.onRead q r))).Leads
    (if t.startAcked q then (t.handshake q (· ||| t.cfg.bQen) true).goto l (.queue (.enableRead q r))
      else returnTo l r true (t.handshake q (· ||| t.cfg.bQen) false)) := by
  have hread : (t.goto l (.queue (.onRead q r))).engineTurn =
      (t.regRead (queueReg q)).goto l (.queue (.onWrite q (t.regVal (queueReg q)) r)) := rfl
  have hacked : t.startAcked q = (decide (0 < t.cfg.queuePollCount) && t.nic.queueOn q) := by simp [State.startAcked, hs]
  rw [hacked]
  refine .head hread (.head (onWrite_turn l q r) ?_)
  have hfound (hon : t.nic.queueOn q = true) :
      ((t.regModify (queueReg q) (· ||| t.cfg.bQen)).goto l (.queue (.onPoll q 0 r))).engineTurn =
        (t.handshake q (· ||| t.cfg.bQen) true).goto l (.queue (.enableRead q r)) :=
    onPoll_found l q r hb (by simpa using hon)
  have hloop (hoff : t.nic.queueOn q = false) :=
    onPoll_pollLoop l q r (t := t.regModify (queueReg q) (· ||| t.cfg.bQen)) (by simpa using hoff)
  exact polls_leads l q r hfound hloop

/-- The turn that makes the request of `queueOff`. -/
theorem offWrite_turn : ((t.regRead (queueReg q)).goto l (.queue (.offWrite q (t.regVal (queueReg q)) r))).engineTurn =
    if 0 < t.cfg.queuePollCount then (t.regModify (queueReg q) (· &&& ~~~t.cfg.bQen)).goto l (.queue (.offPoll q 0 r))
    else returnTo l r true (t.regModify (queueReg q) (· &&& ~~~t.cfg.bQen)) := by
  rw [← returnTo_goto]
  rfl

/-- `queueOff` (R211). -/
theorem queueOff_leads (hb : t.cfg.bQen ≠ 0) (hs : t.cfg.queueHandshake = true) : (t.goto l (.queue (.offRead q r))).Leads
    (returnTo l r (!t.stopAcked q) (t.handshake q (· &&& ~~~t.cfg.bQen) (t.stopAcked q))) := by
  have hread : (t.goto l (.queue (.offRead q r))).engineTurn =
      (t.regRead (queueReg q)).goto l (.queue (.offWrite q (t.regVal (queueReg q)) r)) := rfl
  have hacked : t.stopAcked q = (decide (0 < t.cfg.queuePollCount) && !t.nic.queueOn q) := by simp [State.stopAcked, hs]
  have hfound (hoff : (!t.nic.queueOn q) = true) :
      ((t.regModify (queueReg q) (· &&& ~~~t.cfg.bQen)).goto l (.queue (.offPoll q 0 r))).engineTurn =
        returnTo l r false (t.handshake q (· &&& ~~~t.cfg.bQen) true) :=
    offPoll_found l q r (by simpa using hoff)
  have hloop (hon : (!t.nic.queueOn q) = false) :=
    offPoll_pollLoop l q r (t := t.regModify (queueReg q) (· &&& ~~~t.cfg.bQen)) hb (by simpa using hon)
  have hpolls := polls_leads l q r hfound hloop
  rw [hacked]
  refine .head hread (.head (offWrite_turn l q r) ?_)
  cases hd : (decide (0 < t.cfg.queuePollCount) && !t.nic.queueOn q) with
  | true => rwa [regModify_cfg, hd] at hpolls
  | false => rwa [regModify_cfg, hd] at hpolls

/-! ### The start and the stop as a whole (R213, R215, R217, R219) -/

/-- `t` after a start procedure. -/
def State.startDone (t : State) (q : Queue) : State :=
  let u := if t.cfg.queueHandshake then t.handshake q (· ||| t.cfg.bQen) (t.startAcked q) else t
  if t.startAcked q then (u.regModify (unitReg q) (· ||| unitBit t.cfg q)).setStarted q true else u

/-- `t` after a stop procedure. -/
def State.stopDone (t : State) (q : Queue) : State :=
  let u := (t.regModify (unitReg q) (· &&& ~~~unitBit t.cfg q)).setStarted q false
  if t.cfg.queueHandshake then u.handshake q (· &&& ~~~t.cfg.bQen) (t.stopAcked q) else u

theorem enable_leads : (t.goto l (.queue (.enableRead q r))).Leads
    (returnTo l r false ((t.regModify (unitReg q) (· ||| unitBit t.cfg q)).setStarted q true)) := by
  have hread : (t.goto l (.queue (.enableRead q r))).engineTurn =
      (t.regRead (unitReg q)).goto l (.queue (.enableWrite q (t.regVal (unitReg q)) r)) := rfl
  exact .head hread (.head (by cases r <;> cases q <;> rfl) (.refl _))

theorem startQueue_leads (hb : t.cfg.bQen ≠ 0) : (startQueue l q r t).Leads (returnTo l r (!t.startAcked q) (t.startDone q)) := by
  obtain ⟨hs, e⟩ | ⟨hs, e⟩ := startQueue_cases l t q r
  · rw [e, State.startDone, if_pos hs]
    have hon := queueOn_leads l q r hb hs
    cases hacked : t.startAcked q with
    | true =>
      rw [hacked] at hon
      exact hon.trans (enable_leads l q r)
    | false => rwa [hacked] at hon
  · have hacked : t.startAcked q = true := by simp [State.startAcked, hs]
    rw [e, State.startDone, hacked, if_neg (ne_true_of_eq_false hs)]
    exact enable_leads l q r

/-- The turn that switches the unit off. -/
theorem disableWrite_turn : ((t.regRead (unitReg q)).goto l (.queue (.disableWrite q (t.regVal (unitReg q)) r))).engineTurn =
    if t.cfg.queueHandshake then
      ((t.regModify (unitReg q) (· &&& ~~~unitBit t.cfg q)).setStarted q false).goto l (.queue (.offRead q r))
    else returnTo l r false ((t.regModify (unitReg q) (· &&& ~~~unitBit t.cfg q)).setStarted q false) := by
  rw [← returnTo_goto l r (.queue (.disableWrite q (t.regVal (unitReg q)) r))]
  cases q
  · rfl
  · rfl

theorem stopQueue_leads (hb : t.cfg.bQen ≠ 0) : (stopQueue l q r t).Leads (returnTo l r (!t.stopAcked q) (t.stopDone q)) := by
  have hread : (stopQueue l q r t).engineTurn =
      (t.regRead (unitReg q)).goto l (.queue (.disableWrite q (t.regVal (unitReg q)) r)) := rfl
  refine .head hread (.head (disableWrite_turn l q r) ?_)
  rw [State.stopDone]
  cases hs : t.cfg.queueHandshake with
  | true =>
    have hoff := queueOff_leads l q r (t := (t.regModify (unitReg q) (· &&& ~~~unitBit t.cfg q)).setStarted q false)
      (by simpa using hb) (by simpa using hs)
    have hacked : ((t.regModify (unitReg q) (· &&& ~~~unitBit t.cfg q)).setStarted q false).stopAcked q = t.stopAcked q := by
      cases q <;> rfl
    rwa [hacked, State.setStarted_cfg] at hoff
  | false =>
    have hacked : t.stopAcked q = true := by simp [State.stopAcked, hs]
    rw [hacked]
    exact .refl _

end

/-! ### What the two procedures leave of the receive queue -/

/-- The queue-control word after the request of a start, on a family that makes one. -/
def requestOn (c : Config) (v : Word) : Word := if c.queueHandshake then v ||| c.bQen else v

/-- The same for a stop. -/
def requestOff (c : Config) (v : Word) : Word := if c.queueHandshake then v &&& ~~~c.bQen else v

theorem and_not_or_mask (v mask : Word) : (v &&& ~~~mask) ||| mask = v ||| mask := by
  ext i
  cases h : mask[i] <;> simp [h]

theorem requestOn_requestOff (c : Config) (v : Word) : requestOn c (requestOff c v) = requestOn c v := by
  unfold requestOn requestOff
  split
  · exact and_not_or_mask v c.bQen
  · rfl

section
variable (t : State)

theorem handshake_rx (f : Word → Word) (acked : Bool) : ∃ ps, t.handshake .rx f acked =
    { t with nic := { t.nic with rxqCtl := f (t.regVal .rxqCtl) }, ports := ps } := ⟨_, rfl⟩

theorem startDone_rx : ∃ ps, t.startDone .rx = { t with
    eng := { t.eng with rxStarted := t.startAcked .rx || t.eng.rxStarted }
    nic := { t.nic with
      rxCtrl := if t.startAcked .rx then t.nic.rxCtrl ||| t.cfg.bRxEn else t.nic.rxCtrl
      rxqCtl := requestOn t.cfg t.nic.rxqCtl }
    ports := ps } := by
  have hctl : t.nic.rxqCtl ||| t.cfg.bQen = t.regVal .rxqCtl ||| t.cfg.bQen := (queueWord_or _ _ _).symm
  obtain ⟨ps, hreq⟩ := handshake_rx t (· ||| t.cfg.bQen) (t.startAcked .rx)
  rw [requestOn, hctl, State.startDone, hreq]
  cases t.cfg.queueHandshake <;> cases t.startAcked .rx <;> exact ⟨_, rfl⟩

theorem stopDone_rx : ∃ ps, t.stopDone .rx = { t with
    eng := { t.eng with rxStarted := false }
    nic := { t.nic with
      rxCtrl := t.nic.rxCtrl &&& ~~~t.cfg.bRxEn
      rxqCtl := requestOff t.cfg t.nic.rxqCtl }
    ports := ps } := by
  have hctl : t.nic.rxqCtl &&& ~~~t.cfg.bQen = t.regVal .rxqCtl &&& ~~~t.cfg.bQen := (queueWord_and_not _ _ _).symm
  rw [requestOff, hctl, State.stopDone]
  cases t.cfg.queueHandshake
  · exact ⟨_, rfl⟩
  · exact handshake_rx ((t.regModify .rxCtrl (· &&& ~~~t.cfg.bRxEn)).setStarted .rx false) _ _

@[simp] theorem stopDone_cfg : (t.stopDone .rx).cfg = t.cfg := by
  obtain ⟨_, h⟩ := stopDone_rx t
  rw [h]

@[simp] theorem stopDone_startAcked : (t.stopDone .rx).startAcked .rx = t.startAcked .rx := by
  obtain ⟨_, h⟩ := stopDone_rx t
  rw [h]
  rfl

@[simp] theorem acquire_startAcked : t.acquire.startAcked .rx = t.startAcked .rx := rfl

end

end Sys2Proof.Machine
end

/-! ## FILTER.SET (44_filter.md R198 to R209)

A locked change pauses receive, so that the second one and step 3 may find it stopped. `State.FilterAt` says what the command has made of
the state it started in when it stands between its locked changes; each change keeps it, and step 3 is taken from there. -/

section

namespace Sys2Proof.Machine

/-! ### The locked change (R201) -/

/-- `t` after the change itself. -/
def State.changeDone (t : State) (l : Latch) : Change → State
  | .ctrl => t.regModify .rxCtrl (rxCtrlWord t.cfg l.mask)
  | .mcast => t.mcastProgram (programmedList l t)

/-- `t` after a locked change, all but the release of the lock. -/
def State.lockedChange (t : State) (l : Latch) (x : Change) : State :=
  if t.eng.rxStarted then ((t.acquire.stopDone .rx).changeDone l x).startDone .rx else t.acquire.changeDone l x

/-- What a change makes of the receive-control word (R200, R204). -/
def Change.word (c : Config) (m : BitVec 5) : Change → Word → Word
  | .ctrl, v => rxCtrlWord c m v
  | .mcast, v => v

/-- What a locked change makes of it, the pause with its stop and start included. -/
def Change.lockedWord (c : Config) (m : BitVec 5) (x : Change) (started acked : Bool) (v : Word) : Word :=
  if started then (if acked then x.word c m (v &&& ~~~c.bRxEn) ||| c.bRxEn else x.word c m (v &&& ~~~c.bRxEn)) else x.word c m v

/-- What a change makes of the NIC's multicast list. -/
def State.listAfter (t : State) (l : Latch) : Change → List Mac
  | .ctrl => t.nic.mcast
  | .mcast => programmedList l t

section
variable (l : Latch) (x : Change) (t : State)

theorem changeDone_rx : ∃ ps, t.changeDone l x = { t with
    nic := { t.nic with rxCtrl := x.word t.cfg l.mask t.nic.rxCtrl, mcast := t.listAfter l x }
    ports := ps } := by
  cases x
  · exact ⟨_, rfl⟩
  · exact ⟨_, rfl⟩

@[simp] theorem changeDone_cfg : (t.changeDone l x).cfg = t.cfg := by cases x <;> rfl

@[simp] theorem changeDone_startAcked : (t.changeDone l x).startAcked .rx = t.startAcked .rx := by cases x <;> rfl

theorem change_leads (was late : Bool) :
    (t.goto l (.filter (changePoint x was late))).Leads (changeMade l x was late (t.changeDone l x)) := by
  have hgoto (p : Point) (u : State) : changeMade l x was late (u.goto l p) = changeMade l x was late u := by cases was <;> rfl
  cases x with
  | ctrl =>
    have hread : (t.goto l (.filter (.ctrlRead was late))).engineTurn =
        (t.regRead .rxCtrl).goto l (.filter (.ctrlWrite (t.regVal .rxCtrl) was late)) := rfl
    exact .head hread (.head (hgoto (.filter (.ctrlWrite (t.regVal .rxCtrl) was late)) (t.changeDone l .ctrl)) (.refl _))
  | mcast => exact .head (hgoto (.filter (.program was late)) (t.changeDone l .mcast)) (.refl _)

/-- A stop and a start are never both acknowledged, where an acknowledgement is asked for. -/
theorem pause_late (late : Bool) (q : Queue) :
    (late || !t.stopAcked q || !t.startAcked q) = (late || t.cfg.queueHandshake) := by
  cases hs : t.cfg.queueHandshake <;> cases hon : t.nic.queueOn q <;> cases hn : decide (0 < t.cfg.queuePollCount) <;>
    simp [State.stopAcked, State.startAcked, hs, hon, hn]

/-- What a locked change leaves. -/
theorem lockedChange_rx : ∃ ps, t.lockedChange l x = { t with
    eng := { t.eng with lockHeld := true, rxStarted := t.eng.rxStarted && t.startAcked .rx }
    nic := { t.nic with
      rxCtrl := x.lockedWord t.cfg l.mask t.eng.rxStarted (t.startAcked .rx) t.nic.rxCtrl
      rxqCtl := if t.eng.rxStarted then requestOn t.cfg t.nic.rxqCtl else t.nic.rxqCtl
      mcast := t.listAfter l x }
    ports := ps } := by
  rw [State.lockedChange]
  cases hrx : t.eng.rxStarted with
  | false =>
    obtain ⟨ps, hchange⟩ := changeDone_rx l x t.acquire
    have heng : t.acquire.eng = { t.eng with lockHeld := true, rxStarted := false } := by rw [← hrx]; rfl
    refine ⟨ps, hchange.trans ?_⟩
    rw [Bool.false_and, heng]
    cases x
    · rfl
    · rfl
  | true =>
    obtain ⟨_, hstop⟩ := stopDone_rx t.acquire
    obtain ⟨_, hchange⟩ := changeDone_rx l x (t.acquire.stopDone .rx)
    obtain ⟨ps, hstart⟩ := startDone_rx ((t.acquire.stopDone .rx).changeDone l x)
    refine ⟨ps, hstart.trans ?_⟩
    rw [changeDone_startAcked, stopDone_startAcked, acquire_startAcked, hchange, hstop, Bool.true_and]
    dsimp only [State.acquire_cfg, State.acquire_nic]
    rw [requestOn_requestOff, Bool.or_false]
    cases x
    · rfl
    · rfl

theorem lockedChange_leads (hb : t.cfg.bQen ≠ 0) (hlock : t.lockOther = false) (late : Bool) :
    (t.goto l (.filter (.acquire x late))).Leads
      ((t.lockedChange l x).goto l (.filter (.release x (late || (t.eng.rxStarted && t.cfg.queueHandshake))))) := by
  rw [State.lockedChange]
  obtain ⟨h, _⟩ | ⟨_, hrx, e⟩ | ⟨_, hrx, e⟩ := filterAcquire_cases l (t.goto l (.filter (.acquire x late))) x late
  · exact absurd (hlock.symm.trans h) (by decide)
  · change t.eng.rxStarted = true at hrx
    have hcfg : ((t.acquire.stopDone .rx).changeDone l x).cfg = t.cfg := by rw [changeDone_cfg, stopDone_cfg]; rfl
    rw [if_pos hrx, hrx, Bool.true_and, ← pause_late t late .rx]
    have hstop : (stopQueue l .rx (.paused x late) t.acquire).Leads
      ((t.acquire.stopDone .rx).goto l (.filter (changePoint x true (late || !t.stopAcked .rx)))) := stopQueue_leads l .rx _ hb
    have hchange := change_leads l x (t.acquire.stopDone .rx) true (late || !t.stopAcked .rx)
    have hstart := startQueue_leads l .rx (.resumed x (late || !t.stopAcked .rx)) (t := (t.acquire.stopDone .rx).changeDone l x)
      (by rwa [hcfg])
    rw [changeDone_startAcked, stopDone_startAcked] at hstart
    exact .head e (hstop.trans (hchange.trans hstart))
  · change t.eng.rxStarted = false at hrx
    rw [if_neg (ne_true_of_eq_false hrx), hrx, Bool.false_and, Bool.or_false]
    exact .head e (change_leads l x t.acquire false late)

end

/-! ### What a change makes of the receive-control word (R200) -/

theorem requestOn_requestOn (c : Config) (v : Word) : requestOn c (requestOn c v) = requestOn c v := by
  unfold requestOn
  split
  · rw [BitVec.or_assoc, BitVec.or_self]
  · rfl

theorem ite_zero_getElem (p : Bool) (w : Word) (i : Nat) (hi : i < 32) : (if p = true then w else 0)[i] = (p && w[i]) := by
  cases p
  · simp
  · rfl

section
variable (c : Config) (m : BitVec 5)

/-- The receive-control bits of a filter mask are among the three masks. -/
theorem rxCtrlBits_masked : rxCtrlBits c m &&& (c.bUpe ||| c.bMpe ||| c.bBam) = rxCtrlBits c m := by
  ext i hi
  simp only [rxCtrlBits, BitVec.getElem_and, BitVec.getElem_or, ite_zero_getElem]
  cases c.bUpe[i] <;> cases c.bMpe[i] <;> cases c.bBam[i] <;> simp

/-- A second `writeRxCtrl(m)` changes nothing. -/
theorem rxCtrlWord_rxCtrlWord (v : Word) : rxCtrlWord c m (rxCtrlWord c m v) = rxCtrlWord c m v := by
  unfold rxCtrlWord
  rw [← rxCtrlBits_masked]
  generalize c.bUpe ||| c.bMpe ||| c.bBam = mask
  ext i
  cases h : mask[i] <;> simp [h]

theorem rxCtrlWord_and (v mask : Word) : rxCtrlWord c m v &&& mask =
    ((v &&& mask) &&& ~~~(c.bUpe ||| c.bMpe ||| c.bBam)) ||| (rxCtrlBits c m &&& mask) := by
  ext i
  cases h : mask[i] <;> simp [rxCtrlWord, h]

/-- What a change leaves under a mask depends on the word under that mask alone. -/
theorem Change.word_congr (x : Change) {v w mask : Word} (h : v &&& mask = w &&& mask) :
    x.word c m v &&& mask = x.word c m w &&& mask := by
  cases x with
  | mcast => exact h
  | ctrl => rw [Change.word, Change.word, rxCtrlWord_and, h, rxCtrlWord_and]

/-- A change leaves the bits outside the three masks. -/
theorem Change.word_apart (x : Change) (v : Word) {mask : Word} (h : mask &&& (c.bUpe ||| c.bMpe ||| c.bBam) = 0) :
    x.word c m v &&& mask = v &&& mask := by
  cases x with
  | mcast => rfl
  | ctrl =>
    rw [Change.word, rxCtrlWord, ← rxCtrlBits_masked]
    generalize c.bUpe ||| c.bMpe ||| c.bBam = bits at h ⊢
    ext i hi
    have hbit : (mask &&& bits)[i] = false := by simp [h]
    rw [BitVec.getElem_and] at hbit
    cases hm : mask[i] with
    | false => simp [hm]
    | true =>
      have hb : bits[i] = false := by simpa [hm] using hbit
      simp [hm, hb]

/-- Outside the receive-enable bit a locked change is its change. -/
theorem Change.lockedWord_kept (x : Change) (started acked : Bool) (v : Word) :
    x.lockedWord c m started acked v &&& ~~~c.bRxEn = x.word c m v &&& ~~~c.bRxEn := by
  have hoff : x.word c m (v &&& ~~~c.bRxEn) &&& ~~~c.bRxEn = x.word c m v &&& ~~~c.bRxEn :=
    x.word_congr c m (by rw [BitVec.and_assoc, BitVec.and_self])
  cases started with
  | false => rfl
  | true =>
    cases acked with
    | false => exact hoff
    | true => exact (or_and_not_mask _ _).trans hoff

/-- The receive-enable bit after a locked change, when no change touches it. -/
theorem Change.lockedWord_enabled (x : Change) (started acked : Bool) (v : Word)
    (h : c.bRxEn &&& (c.bUpe ||| c.bMpe ||| c.bBam) = 0) : x.lockedWord c m started acked v &&& c.bRxEn =
      if started then (if acked then c.bRxEn else 0) else v &&& c.bRxEn := by
  cases started with
  | false => exact x.word_apart c m v h
  | true =>
    cases acked with
    | false => exact (x.word_apart c m _ h).trans (by simp [BitVec.and_assoc])
    | true => exact or_and_mask _ _

end

/-! ### The command up to a position between its locked changes -/

/-- What FILTER.SET has made of `s` when it stands at `u` between its locked changes: `ctrl` says that the receive-control bits are
written, `pause` that receive was paused. -/
structure State.FilterAt (l : Latch) (s u : State) (ctrl pause : Bool) : Prop where
  outer : s.SameOuter u
  mapper : s.SameMapper u
  mem : u.mem = s.mem
  regs : u.regs = s.regs
  eng : u.eng = { s.eng with
    seq := u.eng.seq, mcTable := u.eng.mcTable, mcCount := u.eng.mcCount, rxStarted := u.eng.rxStarted, lockHeld := u.eng.lockHeld }
  nic : u.nic = { s.nic with rxCtrl := u.nic.rxCtrl, rxqCtl := u.nic.rxqCtl, mcast := u.nic.mcast }
  lock : s.eng.lockHeld = false → u.eng.lockHeld = false
  started : u.eng.rxStarted = (s.eng.rxStarted && (!pause || s.startAcked .rx))
  paused : pause = true → s.eng.rxStarted = true
  rxqCtl : u.nic.rxqCtl = if pause then requestOn s.cfg s.nic.rxqCtl else s.nic.rxqCtl
  kept : u.nic.rxCtrl &&& ~~~s.cfg.bRxEn =
    (if ctrl then rxCtrlWord s.cfg l.mask s.nic.rxCtrl else s.nic.rxCtrl) &&& ~~~s.cfg.bRxEn
  restarted : pause = true → s.startAcked .rx = true → u.nic.rxCtrl &&& s.cfg.bRxEn = s.cfg.bRxEn
  enabled : s.cfg.bRxEn &&& (s.cfg.bUpe ||| s.cfg.bMpe ||| s.cfg.bBam) = 0 →
    u.nic.rxCtrl &&& s.cfg.bRxEn =
      if pause then (if s.startAcked .rx then s.cfg.bRxEn else 0) else s.nic.rxCtrl &&& s.cfg.bRxEn

theorem State.FilterAt.refl (l : Latch) (s : State) : s.FilterAt l s false false where
  outer := .refl s
  mapper := ⟨rfl, rfl, rfl⟩
  mem := rfl
  regs := rfl
  eng := rfl
  nic := rfl
  lock := id
  started := by simp
  paused := nofun
  rxqCtl := rfl
  kept := rfl
  restarted := nofun
  enabled _ := rfl

section
variable {l : Latch} {s u : State} {ctrl pause : Bool}

theorem State.FilterAt.startAcked (h : s.FilterAt l u ctrl pause) : u.startAcked .rx = s.startAcked .rx := by
  rw [State.startAcked, h.outer.cfg, h.nic]
  rfl

theorem State.FilterAt.stopAcked (h : s.FilterAt l u ctrl pause) : u.stopAcked .rx = s.stopAcked .rx := by
  rw [State.stopAcked, h.outer.cfg, h.nic]
  rfl

/-- A locked change and the release of the lock. -/
theorem State.FilterAt.change (h : s.FilterAt l u ctrl pause) (x : Change) (p : Point) :
    s.FilterAt l ((u.lockedChange l x).goto l p).release (ctrl || decide (x = .ctrl)) (pause || u.eng.rxStarted) := by
  obtain ⟨_, e⟩ := lockedChange_rx l x u
  have hcfg := h.outer.cfg
  rw [e, hcfg, h.startAcked]
  have ⟨_, hin, hlock, hwire, hreads⟩ := h.outer
  have ⟨hmaps, hmapper, hcount⟩ := h.mapper
  refine ⟨⟨rfl, hin, hlock, hwire, hreads⟩, ⟨hmaps, hmapper, hcount⟩, h.mem, h.regs, ?_, ?_, fun _ => rfl, ?_, ?_, ?_, ?_, ?_, ?_⟩
  · rw [h.eng]
    rfl
  · rw [h.nic]
    rfl
  · change (u.eng.rxStarted && s.startAcked .rx) = _
    rw [h.started]
    cases s.eng.rxStarted <;> cases pause <;> cases s.startAcked .rx <;> rfl
  · rw [Bool.or_eq_true]
    rintro (hp | hp)
    · exact h.paused hp
    · rw [h.started] at hp
      exact (Bool.and_eq_true_iff.mp hp).1
  · change (if u.eng.rxStarted then requestOn s.cfg u.nic.rxqCtl else u.nic.rxqCtl) = _
    rw [h.rxqCtl]
    cases pause <;> cases u.eng.rxStarted <;> simp [requestOn_requestOn]
  · refine (x.lockedWord_kept s.cfg l.mask _ _ _).trans ((x.word_congr s.cfg l.mask h.kept).trans ?_)
    cases x <;> cases ctrl <;> simp [Change.word, rxCtrlWord_rxCtrlWord]
  · intro hp hup
    have hrx : u.eng.rxStarted = true := by
      rw [Bool.or_eq_true] at hp
      obtain hp | hp := hp
      · rw [h.started, h.paused hp, hup, Bool.or_true, Bool.and_self]
      · exact hp
    change x.lockedWord s.cfg l.mask u.eng.rxStarted (s.startAcked .rx) u.nic.rxCtrl &&& s.cfg.bRxEn = s.cfg.bRxEn
    rw [hrx, hup]
    exact or_and_mask _ _
  · intro hbits
    refine (x.lockedWord_enabled s.cfg l.mask _ _ _ hbits).trans ?_
    rw [h.enabled hbits]
    cases pause <;> cases u.eng.rxStarted <;> simp

end

/-! ### The multicast table (R203) -/

/-- The tracked list (10_state.md R42). -/
def State.trackedList (t : State) : List Mac := mcastList t.eng.mcTable t.eng.mcCount.toNat

/-- Does a list that is read, if any, differ from the tracked one? -/
def State.listDiffers (t : State) : Option (List Mac) → Bool
  | none => false
  | some new => listChanged new t

/-- `t` after a list that is read, if any, has replaced a different tracked one. -/
def State.tabled (t : State) (list : Option (List Mac)) : State :=
  match list with
  | none => t
  | some new => if listChanged new t then t.setMcastTable new else t

theorem mcastList_length (table : List (Nat × Mac)) (k : Nat) : (mcastList table k).length = k := by simp [mcastList]

theorem listChanged_eq (new : List Mac) (t : State) : listChanged new t = (new != t.trackedList) := by
  rw [Bool.eq_iff_iff]
  simp only [listChanged, State.trackedList, Bool.or_eq_true, bne_iff_ne]
  by_cases hlen : new.length = t.eng.mcCount.toNat
  · simp [hlen]
  · have hne : new ≠ mcastList t.eng.mcTable t.eng.mcCount.toNat := fun h => hlen (h ▸ mcastList_length _ _)
    simp [hlen, hne]

theorem tableGet_setMcast (list : List Mac) {table : List (Nat × Mac)} (hw : tableWf (0 : Mac) table = true) (k j : Nat) :
    tableGet 0 (setMcast table k list) j = if k ≤ j ∧ j < k + list.length then list.getD (j - k) 0 else tableGet 0 table j := by
  induction list generalizing table k with
  | nil =>
    rw [if_neg (by simp)]
    rfl
  | cons m ms ih =>
    rw [setMcast, ih (tableSet_wf 0 hw k m)]
    obtain hlt | rfl | hgt := Nat.lt_trichotomy j k
    · rw [if_neg (by omega), if_neg (by omega), tableGet_set_ne 0 (by omega)]
    · rw [if_neg (by omega), if_pos (by simp), tableGet_set_same 0 hw, Nat.sub_self]
      rfl
    · obtain ⟨i, rfl⟩ := Nat.exists_eq_add_of_lt hgt
      rw [tableGet_set_ne 0 (by omega), List.length_cons, show k + i + 1 - k = i + 1 by omega, show k + i + 1 - (k + 1) = i by omega,
        List.getD_cons_succ]
      exact if_congr (by omega) rfl rfl

section
variable {t : State} {new : List Mac}

/-- A list that is read stands in the table from entry 0 on, and the entries after it keep their values. -/
theorem tableGet_tabled (hw : tableWf (0 : Mac) t.eng.mcTable = true) (k : Nat) :
    tableGet 0 (t.tabled (some new)).eng.mcTable k = if k < new.length then new.getD k 0 else tableGet 0 t.eng.mcTable k := by
  rw [State.tabled]
  cases hd : listChanged new t with
  | true =>
    refine (tableGet_setMcast new hw 0 k).trans ?_
    simp
  | false =>
    have hsame : new = t.trackedList := by simpa [listChanged_eq] using hd
    subst hsame
    rw [if_neg Bool.false_ne_true]
    split
    · next h =>
      rw [State.trackedList, mcastList_length] at h
      simp [State.trackedList, mcastList, h]
    · rfl

theorem mcCount_tabled (hlen : new.length ≤ 255) : (t.tabled (some new)).eng.mcCount = BitVec.ofNat 8 new.length := by
  rw [State.tabled]
  cases hd : listChanged new t with
  | true => rfl
  | false =>
    have hsame : new = t.trackedList := by simpa [listChanged_eq] using hd
    subst hsame
    rw [State.trackedList, mcastList_length, BitVec.ofNat_toNat, BitVec.setWidth_eq]
    rfl

/-- The tracked list is then the list that was read. -/
theorem trackedList_tabled (hw : tableWf (0 : Mac) t.eng.mcTable = true) (hlen : new.length ≤ 255) :
    (t.tabled (some new)).trackedList = new := by
  have hcount : (t.tabled (some new)).eng.mcCount.toNat = new.length := by
    rw [mcCount_tabled hlen, BitVec.toNat_ofNat, Nat.mod_eq_of_lt (by omega)]
  rw [State.trackedList, hcount]
  refine List.ext_getElem (mcastList_length _ _) fun k h1 h2 => ?_
  simp only [mcastList, List.getElem_map, List.getElem_range, tableGet_tabled hw, if_pos h2, List.getD_eq_getElem _ _ h2]

end

/-! ### The reads of the list (R203) -/

/-- The first `n` addresses of the list at `a`. -/
def macsAt (m : List (Nat × Byte)) (a : Addr) (n : Nat) : List Mac :=
  (List.range n).map fun k => macOfBytes (readBytes m (entryAddr a 6 k) 6)

/-- The reads of the first `n` addresses of the list at `a`, newest first. -/
def macReads (a : Addr) (n : Nat) : List PortAction := ((List.range n).map fun k => PortAction.memRead (entryAddr a 6 k) 6).reverse

/-- The list that a FILTER.SET reads in `t`, if it is given one. -/
def Latch.macs (l : Latch) (t : State) : Option (List Mac) :=
  if l.f0 then some (macsAt t.mem l.arg0 (mcastCount t.cfg l)) else none

/-- The reads it makes. -/
def Latch.macReads (l : Latch) (c : Config) : List PortAction := if l.f0 then Machine.macReads l.arg0 (mcastCount c l) else []

theorem macsAt_length (m : List (Nat × Byte)) (a : Addr) (n : Nat) : (macsAt m a n).length = n := by simp [macsAt]

theorem macsAt_succ (m : List (Nat × Byte)) (a : Addr) (n : Nat) :
    macsAt m a (n + 1) = macsAt m a n ++ [macOfBytes (readBytes m (entryAddr a 6 n) 6)] := by
  simp [macsAt, List.range_succ]

theorem macReads_succ (a : Addr) (n : Nat) : macReads a (n + 1) = .memRead (entryAddr a 6 n) 6 :: macReads a n := by
  simp [macReads, List.range_succ]

theorem macReads_isMemRead (l : Latch) (c : Config) : (l.macReads c).all (fun a => a.isMemRead) = true := by
  unfold Latch.macReads
  split
  · simp [macReads, PortAction.isMemRead]
  · rfl

section
variable (l : Latch) (late : Bool) (t : State)

/-- One turn reads one address; after the last one the whole list is looked at. -/
theorem listRead_turn (k : Nat) :
    ((t.noted (macReads l.arg0 k)).goto l (.filter (.listRead (macsAt t.mem l.arg0 k) late))).engineTurn =
      if k + 1 < mcastCount t.cfg l then
        (t.noted (macReads l.arg0 (k + 1))).goto l (.filter (.listRead (macsAt t.mem l.arg0 (k + 1)) late))
      else filterListed l (some (macsAt t.mem l.arg0 (k + 1))) late
        ((t.noted (macReads l.arg0 (k + 1))).goto l (.filter (.listRead (macsAt t.mem l.arg0 k) late))) := by
  rw [macsAt_succ, macReads_succ]
  change filterListRead l _ late _ = _
  rw [filterListRead, macsAt_length]
  rfl

theorem listReads_lead (n k : Nat) (hk : k + (n + 1) = mcastCount t.cfg l) : ∃ p,
    ((t.noted (macReads l.arg0 k)).goto l (.filter (.listRead (macsAt t.mem l.arg0 k) late))).Leads
      (filterListed l (some (macsAt t.mem l.arg0 (mcastCount t.cfg l))) late
        ((t.noted (macReads l.arg0 (mcastCount t.cfg l))).goto l p)) := by
  induction n generalizing k with
  | zero =>
    have hturn := listRead_turn l late t k
    rw [if_neg (by omega), hk] at hturn
    exact ⟨_, .head hturn (.refl _)⟩
  | succ n ih =>
    have hturn := listRead_turn l late t k
    rw [if_pos (by omega)] at hturn
    obtain ⟨p, h⟩ := ih (k + 1) (by omega)
    exact ⟨p, .head hturn h⟩

/-- Step 2 up to the end of its list. -/
theorem filterList_leads : ∃ q, (filterList l late t).Leads (filterListed l (l.macs t) late ((t.noted (l.macReads t.cfg)).setSeq q)) := by
  rw [filterList, Latch.macs, Latch.macReads]
  cases l.f0 with
  | false => exact ⟨t.eng.seq, .refl _⟩
  | true =>
    rw [if_pos rfl, if_pos rfl, if_pos rfl]
    obtain hzero | hpos := Nat.eq_zero_or_pos (mcastCount t.cfg l)
    · rw [hzero]
      exact ⟨t.eng.seq, .refl _⟩
    · obtain ⟨n, hn⟩ : ∃ n, mcastCount t.cfg l = n + 1 := Nat.exists_eq_add_one.mpr hpos
      obtain ⟨p, h⟩ := listReads_lead l late t n 0 (by omega)
      rw [if_pos hpos]
      exact ⟨.running l p, h⟩

/-- Step 2 after its list: the NIC is programmed when the list or FMC changed (R204). -/
theorem filterListed_eq (list : Option (List Mac)) : filterListed l list late t =
    if t.listDiffers list || maskDiffers l t maskFmc then (t.tabled list).goto l (.filter (.acquire .mcast late))
    else filterEnd l late (t.tabled list) := by
  cases list with
  | none => rfl
  | some new =>
    rw [filterListed, State.listDiffers, State.tabled]
    cases listChanged new t <;> rfl

end

/-! ### The steps of the command (R198) -/

/-- `u` has the multicast table of `s`. -/
structure State.SameTable (s u : State) : Prop where
  table : u.eng.mcTable = s.eng.mcTable
  count : u.eng.mcCount = s.eng.mcCount

section
variable {l : Latch} {s u : State} {ctrl pause : Bool}

/-- The position, the table and the record of port actions are no matter of `FilterAt`. -/
theorem State.FilterAt.moved (h : s.FilterAt l u ctrl pause) (q : Seq) (table : List (Nat × Mac)) (count : Byte) (ps : List PortAction) :
    s.FilterAt l { u with eng := { u.eng with seq := q, mcTable := table, mcCount := count }, ports := ps } ctrl pause where
  outer := ⟨h.outer.cfg, h.outer.inputs, h.outer.lockOther, h.outer.wire, h.outer.reads⟩
  mapper := ⟨h.mapper.maps, h.mapper.mapper, h.mapper.mapCount⟩
  mem := h.mem
  regs := h.regs
  eng := by
    rw [h.eng]
  nic := h.nic
  lock := h.lock
  started := h.started
  paused := h.paused
  rxqCtl := h.rxqCtl
  kept := h.kept
  restarted := h.restarted
  enabled := h.enabled

theorem State.FilterAt.noted (h : s.FilterAt l u ctrl pause) (ps : List PortAction) (q : Seq) :
    s.FilterAt l ((u.noted ps).setSeq q) ctrl pause := h.moved q u.eng.mcTable u.eng.mcCount (ps ++ u.ports)

theorem State.FilterAt.tabled (h : s.FilterAt l u ctrl pause) (list : Option (List Mac)) : s.FilterAt l (u.tabled list) ctrl pause := by
  cases list with
  | none => exact h
  | some new =>
    rw [State.tabled]
    split
    · exact h.moved u.eng.seq (setMcast u.eng.mcTable 0 new) (BitVec.ofNat 8 new.length) u.ports
    · exact h

theorem tabled_nic (t : State) (list : Option (List Mac)) : (t.tabled list).nic = t.nic := by
  cases list with
  | none => rfl
  | some new =>
    rw [State.tabled]
    split <;> rfl

theorem State.FilterAt.filterMask (h : s.FilterAt l u ctrl pause) : u.eng.filterMask = s.eng.filterMask := by rw [h.eng]

theorem State.FilterAt.maskDiffers (h : s.FilterAt l u ctrl pause) (b : BitVec 5) : maskDiffers l u b = maskDiffers l s b := by
  rw [Machine.maskDiffers, h.filterMask]
  rfl

theorem State.FilterAt.macs (h : s.FilterAt l u ctrl pause) : l.macs u = l.macs s := by
  rw [Latch.macs, h.mem, h.outer.cfg]
  rfl

theorem State.SameTable.listChanged (h : s.SameTable u) (new : List Mac) : listChanged new u = listChanged new s := by
  rw [Machine.listChanged, h.table, h.count]
  rfl

theorem State.SameTable.listDiffers (h : s.SameTable u) (list : Option (List Mac)) : u.listDiffers list = s.listDiffers list := by
  cases list with
  | none => rfl
  | some new => exact h.listChanged new

theorem State.SameTable.tabled (h : s.SameTable u) (list : Option (List Mac)) : (s.tabled list).SameTable (u.tabled list) := by
  cases list with
  | none => exact h
  | some new =>
    rw [State.tabled, State.tabled, h.listChanged]
    split
    · exact ⟨by rw [State.setMcastTable_eng, h.table]; rfl, rfl⟩
    · exact h

theorem State.SameTable.programmedList (h : s.SameTable u) : programmedList l u = programmedList l s := by
  rw [Machine.programmedList, h.table, h.count]
  rfl

/-- A locked change as a whole, from its `Acquire()` to its `Release()`. -/
theorem State.FilterAt.change_leads (h : s.FilterAt l u ctrl pause) (hb : s.cfg.bQen ≠ 0) (hlock : s.lockOther = false) (x : Change)
    (late : Bool) : ∃ v, (u.goto l (.filter (.acquire x late))).Leads
        (filterRelease l x (late || (u.eng.rxStarted && s.cfg.queueHandshake)) v) ∧
      s.FilterAt l v.release (ctrl || decide (x = .ctrl)) (pause || u.eng.rxStarted) ∧ u.SameTable v ∧ v.nic.mcast = u.listAfter l x := by
  have hlead := lockedChange_leads l x u (by rwa [h.outer.cfg]) (h.outer.lockOther.trans hlock) late
  rw [h.outer.cfg] at hlead
  obtain ⟨_, e⟩ := lockedChange_rx l x u
  refine ⟨_, hlead.trans (.head rfl (.refl _)), h.change x _, ?_, ?_⟩
  · rw [e]
    exact ⟨rfl, rfl⟩
  · rw [e]
    rfl

/-- Does step 1 write the receive-control bits (R199)? -/
def Latch.ctrlDiffers (l : Latch) (s : State) : Bool := Machine.maskDiffers l s (maskProm ||| maskBroadcast ||| maskAllmc)

/-- Does step 2 program the NIC (R204)? -/
def Latch.programs (l : Latch) (s : State) : Bool := s.listDiffers (l.macs s) || Machine.maskDiffers l s maskFmc

/-- Is receive paused (R201)? -/
def Latch.pauses (l : Latch) (s : State) : Bool := s.eng.rxStarted && (l.ctrlDiffers s || l.programs s)

/-- Step 1 (R199 to R201). -/
theorem filterStart_leads (hb : s.cfg.bQen ≠ 0) (hlock : s.lockOther = false) (hok : filterRefused l s = false) :
    ∃ u, (filterStart l s).Leads (filterList l (s.eng.rxStarted && l.ctrlDiffers s && s.cfg.queueHandshake) u) ∧
      s.FilterAt l u (l.ctrlDiffers s) (s.eng.rxStarted && l.ctrlDiffers s) ∧ s.SameTable u ∧ u.nic.mcast = s.nic.mcast := by
  rw [filterStart, if_neg (ne_true_of_eq_false hok)]
  change ∃ u, State.Leads (if l.ctrlDiffers s = true then _ else _) _ ∧ _
  cases l.ctrlDiffers s with
  | false =>
    rw [Bool.and_false]
    exact ⟨s, .refl _, .refl l s, ⟨rfl, rfl⟩, rfl⟩
  | true =>
    obtain ⟨v, hlead, hat, htable, hmcast⟩ := (State.FilterAt.refl l s).change_leads hb hlock .ctrl false
    rw [Bool.and_true]
    exact ⟨v.release, hlead, hat, ⟨htable.table, htable.count⟩, hmcast⟩

/-- Step 2 after its list (R203, R204). -/
theorem State.FilterAt.listed_leads (h : s.FilterAt l u ctrl pause) (hb : s.cfg.bQen ≠ 0) (hlock : s.lockOther = false)
    (htable : s.SameTable u) (hmcast : u.nic.mcast = s.nic.mcast) (late : Bool) :
    ∃ v, (filterListed l (l.macs s) late u).Leads (filterEnd l (late || (u.eng.rxStarted && l.programs s && s.cfg.queueHandshake)) v) ∧
      s.FilterAt l v ctrl (pause || (u.eng.rxStarted && l.programs s)) ∧ (s.tabled (l.macs s)).SameTable v ∧
      v.nic.mcast = if l.programs s then programmedList l (s.tabled (l.macs s)) else s.nic.mcast := by
  have hprog : (u.listDiffers (l.macs s) || Machine.maskDiffers l u maskFmc) = l.programs s := by
    rw [htable.listDiffers, h.maskDiffers]
    rfl
  have hrx : (u.tabled (l.macs s)).eng.rxStarted = u.eng.rxStarted := by
    rw [(h.tabled _).started, h.started]
  rw [filterListed_eq, hprog]
  cases l.programs s with
  | false =>
    rw [Bool.and_false, Bool.false_and, Bool.or_false, Bool.or_false]
    exact ⟨_, .refl _, h.tabled _, htable.tabled _, (congrArg Nic.mcast (tabled_nic u _)).trans hmcast⟩
  | true =>
    obtain ⟨v, hlead, hat, hsame, hlist⟩ := (h.tabled (l.macs s)).change_leads hb hlock .mcast late
    rw [hrx] at hlead hat
    rw [Bool.and_true]
    rw [decide_eq_false (by decide), Bool.or_false] at hat
    refine ⟨v.release, hlead, hat, ⟨hsame.table.trans (htable.tabled _).table, hsame.count.trans (htable.tabled _).count⟩, ?_⟩
    exact hlist.trans (htable.tabled _).programmedList

/-- Receive is paused in step 1 or in step 2, and in step 2 only if a pause before it has restarted receive. -/
theorem pause_or : ∀ started ctrl prog acked : Bool,
    ((started && ctrl) || (started && (!(started && ctrl) || acked) && prog)) = (started && (ctrl || prog)) := by decide

/-- Steps 1 and 2 (R198 to R204). -/
theorem filterStart_leads_end (hb : s.cfg.bQen ≠ 0) (hlock : s.lockOther = false) (hok : filterRefused l s = false) :
    ∃ u, (filterStart l s).Leads (filterEnd l (l.pauses s && s.cfg.queueHandshake) u) ∧
      s.FilterAt l u (l.ctrlDiffers s) (l.pauses s) ∧ (s.tabled (l.macs s)).SameTable u ∧
      u.nic.mcast = if l.programs s then programmedList l (s.tabled (l.macs s)) else s.nic.mcast := by
  obtain ⟨u, hstart, hu, htable, hmcast⟩ := filterStart_leads hb hlock hok
  obtain ⟨q, hread⟩ := filterList_leads l (s.eng.rxStarted && l.ctrlDiffers s && s.cfg.queueHandshake) u
  rw [hu.macs] at hread
  obtain ⟨v, hend, hv, hvtable, hvmcast⟩ := (hu.noted (l.macReads u.cfg) q).listed_leads hb hlock ⟨htable.table, htable.count⟩ hmcast
    (s.eng.rxStarted && l.ctrlDiffers s && s.cfg.queueHandshake)
  have hrx : ((u.noted (l.macReads u.cfg)).setSeq q).eng.rxStarted =
    (s.eng.rxStarted && (!(s.eng.rxStarted && l.ctrlDiffers s) || s.startAcked .rx)) := hu.started
  rw [hrx] at hend hv
  rw [pause_or] at hv
  rw [← Bool.and_or_distrib_right, pause_or] at hend
  exact ⟨v, hstart.trans (hread.trans hend), hv, hvtable, hvmcast⟩

end

/-! ### Step 3 (R205, R206) -/

/-- `t` with receive brought to the wanted state, or asked to; receive that is in it already is not touched. -/
def State.brought (t : State) (want : Bool) : State :=
  if want = t.eng.rxStarted then t else if want then t.startDone .rx else t.stopDone .rx

/-- Is the handshake made for that, if there is one, acknowledged? -/
def State.broughtAcked (t : State) (want : Bool) : Bool :=
  if want = t.eng.rxStarted then true else if want then t.startAcked .rx else t.stopAcked .rx

/-- What it makes of the receive-control word. -/
def broughtWord (c : Config) (want started acked : Bool) (v : Word) : Word :=
  if want = started then v else if want then (if acked then v ||| c.bRxEn else v) else v &&& ~~~c.bRxEn

/-- What it makes of the queue-control word. -/
def broughtQueue (c : Config) (want started : Bool) (v : Word) : Word :=
  if want = started then v else if want then requestOn c v else requestOff c v

/-- The mask tracked after a FILTER.SET with mask `m` (R206). -/
def trackedMask (m : BitVec 5) : BitVec 5 := if m = 0 then 0 else m ||| maskUnicast

/-- `t` with the tracked mask written (R206). -/
def State.masked (t : State) (l : Latch) : State := t.setEng { t.eng with filterMask := trackedMask l.mask }

/-- Is receive wanted after the command (R205)? -/
def Latch.wants (l : Latch) : Bool := decide (l.mask ≠ 0)

section
variable (l : Latch) (t : State)

theorem filterEnd_eq (late : Bool) : filterEnd l late t =
    if l.wants = t.eng.rxStarted then (t.masked l).finish (lateStatus late)
    else if l.wants then startQueue l .rx (.final late) (t.masked l) else stopQueue l .rx (.final late) (t.masked l) := by
  rw [Latch.wants]
  obtain ⟨hm, hrx, e⟩ | ⟨hm, hrx, e⟩ | ⟨hiff, e⟩ := filterEnd_cases l t late (t.masked l) rfl
  · rw [e, hrx, decide_eq_true hm]
    rfl
  · rw [e, hrx, decide_eq_false (not_not.mpr hm)]
    rfl
  · rw [e, if_pos]
    cases hrx : t.eng.rxStarted with
    | true => exact decide_eq_true fun hm => Bool.false_ne_true ((hiff.mp hm).symm.trans hrx)
    | false => exact decide_eq_false (not_not.mpr (hiff.mpr hrx))

/-- Step 3 ends the command. -/
theorem filterEnd_leads (hb : t.cfg.bQen ≠ 0) (late : Bool) : (filterEnd l late t).Leads
    (((t.masked l).brought l.wants).finish (lateStatus (late || !t.broughtAcked l.wants))) := by
  rw [filterEnd_eq]
  unfold State.brought State.broughtAcked
  change State.Leads _ (State.finish (if l.wants = t.eng.rxStarted then _ else _) _)
  by_cases h : l.wants = t.eng.rxStarted
  · rw [if_pos h, if_pos h, if_pos h, Bool.not_true, Bool.or_false]
    exact .refl _
  · rw [if_neg h, if_neg h, if_neg h]
    cases l.wants with
    | true => exact startQueue_leads l .rx (.final late) (t := t.masked l) hb
    | false => exact stopQueue_leads l .rx (.final late) (t := t.masked l) hb

theorem brought_rx (want : Bool) : ∃ ps, t.brought want = { t with
    eng := { t.eng with rxStarted := want && (t.eng.rxStarted || t.startAcked .rx) }
    nic := { t.nic with
      rxCtrl := broughtWord t.cfg want t.eng.rxStarted (t.startAcked .rx) t.nic.rxCtrl
      rxqCtl := broughtQueue t.cfg want t.eng.rxStarted t.nic.rxqCtl }
    ports := ps } := by
  unfold State.brought broughtWord broughtQueue
  by_cases h : want = t.eng.rxStarted
  · have hkept : (t.eng.rxStarted && (t.eng.rxStarted || t.startAcked .rx)) = t.eng.rxStarted := by cases t.eng.rxStarted <;> rfl
    rw [if_pos h, if_pos h, if_pos h, h, hkept]
    exact ⟨t.ports, rfl⟩
  · rw [if_neg h, if_neg h, if_neg h]
    cases want with
    | true =>
      obtain ⟨ps, hstart⟩ := startDone_rx t
      refine ⟨ps, hstart.trans ?_⟩
      rw [Bool.or_comm]
      rfl
    | false =>
      obtain ⟨ps, hstop⟩ := stopDone_rx t
      exact ⟨ps, hstop⟩

end

/-! ### FILTER.SET as a whole -/

theorem latch_f0_filterSet (s : State) (mcl : Bool) (mask : Half) : (s.latch (encode (.filterSet mcl mask))).f0 = mcl :=
  f0Field_cmdWord _ _ _ _

theorem latch_mask_eq (l : Latch) : l.mask = (immField l.word).extractLsb' 0 5 := by
  ext i hi
  have h16 : i < 16 := by omega
  simp [Latch.mask, immField, h16]

theorem latch_mask_filterSet (s : State) (mcl : Bool) (mask : Half) :
    (s.latch (encode (.filterSet mcl mask))).mask = mask.extractLsb' 0 5 :=
  (latch_mask_eq _).trans (congrArg (BitVec.extractLsb' 0 5) (immField_cmdWord _ _ _ _))

/-- Does one of its queue handshakes time out (R207)? -/
def Latch.late (l : Latch) (s : State) : Bool :=
  (l.pauses s && s.cfg.queueHandshake) ||
    !(if l.wants = (s.eng.rxStarted && (!l.pauses s || s.startAcked .rx)) then true
      else if l.wants then s.startAcked .rx else s.stopAcked .rx)

section
variable {s : State} {mcl : Bool} {mask : Half}

/-- FILTER.SET as a whole: `u` is the state before step 3. -/
theorem exec_filterSet (hr : s.Ready) (hw : s.eng.hwInit = true) (hmask : mask.toNat < 32) (hlegal : s.FilterLegal mcl) {l : Latch}
    {c : State} (hl : l = s.latch (encode (.filterSet mcl mask))) (hc : c = s.startCmd (encode (.filterSet mcl mask))) :
    ∃ u ps, c.FilterAt l u (l.ctrlDiffers c) (l.pauses c) ∧ (c.tabled (l.macs c)).SameTable u ∧
      u.nic.mcast = (if l.programs c then programmedList l (c.tabled (l.macs c)) else c.nic.mcast) ∧
      exec (.filterSet mcl mask) s = .next { u with
        eng := { u.eng with
          seq := .idle
          filterMask := trackedMask l.mask
          rxStarted := l.wants && (u.eng.rxStarted || c.startAcked .rx) }
        regs := s.regs.ended (lateStatus (l.late c))
        nic := { u.nic with
          rxCtrl := broughtWord c.cfg l.wants u.eng.rxStarted (c.startAcked .rx) u.nic.rxCtrl
          rxqCtl := broughtQueue c.cfg l.wants u.eng.rxStarted u.nic.rxqCtl }
        ports := ps } := by
  obtain ⟨-, -, -, -, -, -, -, -, -, hbits⟩ := configWf_spec hr.cfg
  have hb : c.cfg.bQen ≠ 0 := hc ▸ (hbits s.cfg.bQen (by simp)).1
  have hok : filterRefused l c = false := hl ▸ hc ▸ (filterRefused_eq_false_iff mcl mask).mpr hlegal
  obtain ⟨u, hstart, hu, htable, hmcast⟩ := filterStart_leads_end hb (hc ▸ hr.lock) hok
  have hend := hstart.trans (filterEnd_leads l u (by rwa [hu.outer.cfg]) _)
  rw [hl, hc] at hend
  have hexec := exec_leads hr (i := .filterSet mcl mask) (decide_eq_true hmask) (fun _ => hw) hend rfl
  rw [← hl, ← hc] at hexec
  have hlate : (l.pauses c && c.cfg.queueHandshake || !u.broughtAcked l.wants) = l.late c := by
    rw [Latch.late, State.broughtAcked, hu.started, hu.startAcked, hu.stopAcked]
  have hregs (code : Status) : s.regs.ended code = { u.regs with code := code } := by
    rw [hu.regs, hc]
    rfl
  obtain ⟨ps, hbrought⟩ := brought_rx (u.masked l) l.wants
  refine ⟨u, ps, hu, htable, hmcast, hexec.trans ?_⟩
  rw [hlate, hbrought, hregs, ← hu.startAcked, ← hu.outer.cfg]
  rfl

end

/-! ### What it leaves of receive (R205, R207) -/

section
variable {l : Latch} {c u : State}

/-- The queue-control word: `pause` says that receive was paused before step 3. -/
theorem broughtQueue_paused (k : Config) (want started pause up : Bool) (v : Word) (hp : pause = true → started = true) :
    broughtQueue k want (started && (!pause || up)) (if pause then requestOn k v else v) =
      if k.queueHandshake = false then v
      else if want = true then (if started && !pause then v else v ||| k.bQen)
      else if started = false then v
      else if pause && !up then v ||| k.bQen
      else v &&& ~~~k.bQen := by
  unfold broughtQueue requestOn requestOff
  have hoff := or_and_not_mask v k.bQen
  cases started with
  | false =>
    obtain rfl : pause = false := Bool.eq_false_iff.mpr fun h => Bool.false_ne_true (hp h)
    cases want <;> cases k.queueHandshake <;> simp
  | true => cases want <;> cases pause <;> cases up <;> cases k.queueHandshake <;> simp [BitVec.or_assoc, hoff]

theorem broughtWord_kept (k : Config) (want started up : Bool) (v : Word) :
    broughtWord k want started up v &&& ~~~k.bRxEn = v &&& ~~~k.bRxEn := by
  unfold broughtWord
  split_ifs
  · rfl
  · exact or_and_not_mask v _
  · rfl
  · rw [BitVec.and_assoc, BitVec.and_self]

theorem broughtWord_enabled (k : Config) (want started up : Bool) (v : Word) : broughtWord k want started up v &&& k.bRxEn =
    if want = started then v &&& k.bRxEn else if want then (if up then k.bRxEn else v &&& k.bRxEn) else 0 := by
  unfold broughtWord
  split_ifs
  · rfl
  · exact or_and_mask v _
  · rfl
  · simp [BitVec.and_assoc]

/-- The receive-control word as R200 has it. -/
theorem rxCtrlWord_bits (k : Config) (m : BitVec 5) (v : Word) : rxCtrlWord k m v =
    (v &&& ~~~(k.bUpe ||| k.bMpe ||| k.bBam)) ||| (if m.getLsbD 3 then k.bUpe else 0) |||
      (if m.getLsbD 3 || m.getLsbD 4 then k.bMpe else 0) ||| (if m.getLsbD 1 then k.bBam else 0) := by
  have hbit : ∀ m : BitVec 5, hasBit m maskProm = m.getLsbD 3 ∧ hasBit m maskAllmc = m.getLsbD 4 ∧
      hasBit m maskBroadcast = m.getLsbD 1 := by decide
  obtain ⟨hprom, hallmc, hbroadcast⟩ := hbit m
  rw [rxCtrlWord, rxCtrlBits, hprom, hallmc, hbroadcast, ← BitVec.or_assoc, ← BitVec.or_assoc]

/-- The command is late exactly when a handshake is made and not acknowledged: that of step 3, or one of a pause (R207). -/
theorem late_iff : l.late c = true ↔ c.cfg.queueHandshake = true ∧ (l.pauses c = true ∨
    (l.wants = true ∧ c.eng.rxStarted = false ∧ c.startAcked .rx = false) ∨
    (l.wants = false ∧ c.eng.rxStarted = true ∧ c.stopAcked .rx = false)) := by
  unfold Latch.late
  cases hs : c.cfg.queueHandshake with
  | false => simp [State.startAcked, State.stopAcked, hs]
  | true =>
    cases l.pauses c with
    | true => simp
    | false => cases l.wants <;> cases c.eng.rxStarted <;> simp

theorem wants_iff : l.wants = true ↔ l.mask ≠ 0 := decide_eq_true_iff

theorem wants_eq_false_iff : l.wants = false ↔ l.mask = 0 := by rw [Latch.wants, decide_eq_false_iff_not, not_not]

theorem ctrlDiffers_eq : l.ctrlDiffers c = ((l.mask ^^^ c.eng.filterMask) &&& 0x1A != 0) := rfl

theorem programs_eq {mcl : Bool} {list : List Mac} (hmacs : l.macs c = if mcl then some list else none) :
    l.programs c = (mcl && list != c.trackedList || (l.mask ^^^ c.eng.filterMask) &&& 0x04 != 0) := by
  rw [Latch.programs, hmacs]
  cases mcl with
  | false => rfl
  | true =>
    rw [if_pos rfl, State.listDiffers, listChanged_eq]
    rfl

/-- The list that step 2 programs. -/
theorem programmedList_eq : programmedList l c = if l.mask.getLsbD 2 then c.trackedList else [] := by
  have hbit : ∀ m : BitVec 5, hasBit m maskFmc = m.getLsbD 2 := by decide
  rw [programmedList, hbit]
  rfl

end

/-- The multicast table after step 2, with a list or without one (R203). -/
structure State.TableLeft (c t : State) (mcl : Bool) (list : List Mac) : Prop where
  count : t.eng.mcCount = if mcl then BitVec.ofNat 8 list.length else c.eng.mcCount
  entry : ∀ k, tableGet 0 t.eng.mcTable k = if mcl = true ∧ k < list.length then list.getD k 0 else tableGet 0 c.eng.mcTable k
  tracked : t.trackedList = if mcl then list else c.trackedList

theorem tabled_left {c : State} (hw : tableWf (0 : Mac) c.eng.mcTable = true) (mcl : Bool) {list : List Mac} (hlen : list.length ≤ 255) :
    c.TableLeft (c.tabled (if mcl then some list else none)) mcl list := by
  cases mcl with
  | false => exact ⟨rfl, fun k => (if_neg (by simp)).symm, rfl⟩
  | true => exact ⟨mcCount_tabled hlen, fun k => by simpa using tableGet_tabled hw k, trackedList_tabled hw hlen⟩

theorem State.SameTable.tableLeft {c t u : State} {mcl : Bool} {list : List Mac} (h : t.SameTable u) (ht : c.TableLeft t mcl list) :
    c.TableLeft u mcl list where
  count := h.count.trans ht.count
  entry k := by rw [h.table, ht.entry]
  tracked := by
    rw [State.trackedList, h.table, h.count]
    exact ht.tracked

theorem macs_filterSet (s : State) (mcl : Bool) (mask : Half) :
    (s.latch (encode (.filterSet mcl mask))).macs (s.startCmd (encode (.filterSet mcl mask))) =
      if mcl then some (s.listRead s.listCount) else none := by
  rw [Latch.macs, latch_f0_filterSet]
  rfl

theorem listRead_length (s : State) (n : Nat) : (s.listRead n).length = n := by simp [State.listRead]

theorem listCount_le {s : State} (hc : configWf s.cfg = true) : s.listCount ≤ 255 := mcastCount_le (l := s.latch 0) hc

section
variable {l : Latch} {c u : State} {ctrl pause : Bool}

theorem State.FilterAt.eng_end (h : c.FilterAt l u ctrl pause) (q : Seq) (m : BitVec 5) (started : Bool) :
    { u.eng with seq := q, filterMask := m, rxStarted := started } = { c.eng with
      seq := q, filterMask := m, rxStarted := started,
      mcTable := u.eng.mcTable, mcCount := u.eng.mcCount, lockHeld := u.eng.lockHeld } := by
  rw [h.eng]

theorem State.FilterAt.nic_end (h : c.FilterAt l u ctrl pause) (v w : Word) :
    { u.nic with rxCtrl := v, rxqCtl := w } = { c.nic with rxCtrl := v, rxqCtl := w, mcast := u.nic.mcast } := by
  rw [h.nic]

theorem State.FilterAt.started_end (h : c.FilterAt l u ctrl pause) (want : Bool) :
    (want && (u.eng.rxStarted || c.startAcked .rx)) = (want && ((c.eng.rxStarted && !pause) || c.startAcked .rx)) := by
  rw [h.started]
  cases c.eng.rxStarted <;> cases pause <;> cases c.startAcked .rx <;> rfl

theorem State.FilterAt.rxqCtl_end (h : c.FilterAt l u ctrl pause) (want : Bool) :
    broughtQueue c.cfg want u.eng.rxStarted u.nic.rxqCtl =
      if c.cfg.queueHandshake = false then c.nic.rxqCtl
      else if want = true then (if c.eng.rxStarted && !pause then c.nic.rxqCtl else c.nic.rxqCtl ||| c.cfg.bQen)
      else if c.eng.rxStarted = false then c.nic.rxqCtl
      else if pause && !c.startAcked .rx then c.nic.rxqCtl ||| c.cfg.bQen
      else c.nic.rxqCtl &&& ~~~c.cfg.bQen := by
  rw [h.started, h.rxqCtl]
  exact broughtQueue_paused _ _ _ _ _ _ h.paused

/-- The receive-control word after step 3. -/
def endWord (l : Latch) (c u : State) : Word := broughtWord c.cfg l.wants u.eng.rxStarted (c.startAcked .rx) u.nic.rxCtrl

theorem State.FilterAt.kept_end (h : c.FilterAt l u ctrl pause) : endWord l c u &&& ~~~c.cfg.bRxEn =
    (if ctrl then rxCtrlWord c.cfg l.mask c.nic.rxCtrl else c.nic.rxCtrl) &&& ~~~c.cfg.bRxEn :=
  (broughtWord_kept _ _ _ _ _).trans h.kept

/-- A start that is acknowledged, in step 3 or in a pause before it, leaves the receiver on. -/
theorem State.FilterAt.restarted_end (h : c.FilterAt l u ctrl pause) (hwant : l.wants = true) (hoff : (c.eng.rxStarted && !pause) = false)
    (hup : c.startAcked .rx = true) : endWord l c u &&& c.cfg.bRxEn = c.cfg.bRxEn := by
  have hrx : u.eng.rxStarted = c.eng.rxStarted := by rw [h.started, hup, Bool.or_true, Bool.and_true]
  rw [endWord, broughtWord_enabled, hwant, hup, hrx]
  cases hs : c.eng.rxStarted with
  | false => rfl
  | true =>
    rw [hs, Bool.true_and, Bool.not_eq_false'] at hoff
    exact h.restarted hoff hup

/-- A stop in step 3 leaves the receiver off. -/
theorem State.FilterAt.stopped_end (h : c.FilterAt l u ctrl pause) (hwant : l.wants = false) (hon : c.eng.rxStarted = true)
    (hup : (pause && !c.startAcked .rx) = false) : endWord l c u &&& c.cfg.bRxEn = 0 := by
  have hrx : u.eng.rxStarted = true := by
    rw [h.started, hon]
    revert hup
    cases pause <;> cases c.startAcked .rx <;> decide
  rw [endWord, broughtWord_enabled, hwant, hrx]
  rfl

theorem State.FilterAt.enabled_end (h : c.FilterAt l u ctrl pause)
    (hbits : c.cfg.bRxEn &&& (c.cfg.bUpe ||| c.cfg.bMpe ||| c.cfg.bBam) = 0) : endWord l c u &&& c.cfg.bRxEn =
      if l.wants = true then
        (if c.eng.rxStarted && !pause then c.nic.rxCtrl &&& c.cfg.bRxEn
          else if c.startAcked .rx then c.cfg.bRxEn
          else if c.eng.rxStarted then 0
          else c.nic.rxCtrl &&& c.cfg.bRxEn)
      else if c.eng.rxStarted then 0
      else c.nic.rxCtrl &&& c.cfg.bRxEn := by
  have hpause := h.paused
  rw [endWord, broughtWord_enabled, h.enabled hbits, h.started]
  cases hs : c.eng.rxStarted with
  | false =>
    obtain rfl : pause = false := Bool.eq_false_iff.mpr fun hp => Bool.false_ne_true (hs.symm.trans (hpause hp))
    cases l.wants <;> simp
  | true => cases l.wants <;> cases pause <;> cases c.startAcked .rx <;> simp

end

/-! ### The locked change, step by step (R201) -/

section
variable (l : Latch) (s : State)

theorem filterAcquire_takes (x : Change) (late : Bool) (hlock : s.lockOther = false) : filterAcquire l x late s = { s with
    eng := { s.eng with
      lockHeld := true
      seq := .running l (if s.eng.rxStarted then .queue (.disableRead .rx (.paused x late)) else .filter (changePoint x false late)) }
    ports := .acquire :: s.ports } := by
  obtain ⟨h, _⟩ | ⟨_, hrx, e⟩ | ⟨_, hrx, e⟩ := filterAcquire_cases l s x late
  · exact absurd (hlock.symm.trans h) (by decide)
  · rw [e, hrx]
    rfl
  · rw [e, hrx]
    rfl

theorem changeMade_eng (x : Change) (was late : Bool) : (changeMade l x was late s).eng = { s.eng with
    seq := .running l
      (if was = false then .filter (.release x late)
        else if s.cfg.queueHandshake then .queue (.onRead .rx (.resumed x late))
        else .queue (.enableRead .rx (.resumed x late))) } := by
  cases was with
  | false => rfl
  | true =>
    change (startQueue l .rx (.resumed x late) s).eng = _
    obtain ⟨hs, e⟩ | ⟨hs, e⟩ := startQueue_cases l s .rx (.resumed x late)
    · rw [e, hs]
      rfl
    · rw [e, hs]
      rfl

theorem disableWrite_eng (v : Word) (r : Return) (hs : s.cfg.queueHandshake = false) :
    (disableWrite l .rx v r s).eng = (returnTo l r false (s.setStarted .rx false)).eng := by
  have h : disableWrite l .rx v r s = returnTo l r false _ := if_neg (ne_true_of_eq_false hs)
  rw [h]
  cases r <;> rfl

end

/-- Settles O42: the two locked changes leave what `FilterAt` says, and step 3 brings receive to the wanted state. -/
theorem filterSetEffect : Obligations.FilterSetEffect := by
  refine ⟨?_, ?_, ?_, ?_, ?_⟩
  · intro s mcl mask m list old change ctrl prog pause up down hr hcan hw hheld hmask hlegal hm hlist hold hchange hctrl hprog hpause
      hup hdown
    obtain ⟨-, -, -, -, -, -, -, -, -, hbits⟩ := configWf_spec hr.cfg
    have hen : s.cfg.bRxEn ≠ 0 := (hbits _ (by simp)).1
    generalize hl : s.latch (encode (.filterSet mcl mask)) = l
    generalize hc : s.startCmd (encode (.filterSet mcl mask)) = c
    obtain ⟨u, ps, hu, htable, hmcast, hexec⟩ := exec_filterSet hr hw hmask hlegal hl.symm hc.symm
    have hlm : l.mask = m := by rw [← hl, latch_mask_filterSet, hm]
    have hmacs : l.macs c = if mcl then some list else none := by rw [← hl, ← hc, macs_filterSet, hlist]
    have hlen : list.length = s.listCount := by rw [hlist, listRead_length]
    have hlc : l.ctrlDiffers c = ctrl := by rw [ctrlDiffers_eq, hlm, hctrl, ← hc]; rfl
    have hold' : c.trackedList = old := by rw [hold, ← hc]; rfl
    have hlp : l.programs c = prog := by rw [programs_eq hmacs, hold', hlm, hprog, hchange, ← hc]; rfl
    have hpauses : l.pauses c = pause := by rw [Latch.pauses, hlc, hlp, hpause, ← hc]; rfl
    have hleft : c.TableLeft (c.tabled (l.macs c)) mcl list := by
      rw [hmacs]
      exact tabled_left (by rw [← hc]; exact hcan.mc) mcl (by rw [hlen]; exact listCount_le hr.cfg)
    have hlate : lateStatus (l.late c) = if s.cfg.queueHandshake = true ∧
        (pause = true ∨ (m ≠ 0 ∧ s.eng.rxStarted = false ∧ up = false) ∨ (m = 0 ∧ s.eng.rxStarted = true ∧ down = false))
        then .timeout else .success := by
      refine if_congr ?_ rfl rfl
      rw [late_iff, hpauses, wants_iff, wants_eq_false_iff, hlm, hup, hdown, ← hc]
      rfl
    subst hc
    have hup' : (s.startCmd (encode (.filterSet mcl mask))).startAcked .rx = up := hup.symm
    have hwant : l.wants = decide (m ≠ 0) := by rw [Latch.wants, hlm]
    rw [hlc, hpauses] at hu
    rw [hlp] at hmcast
    have htab := htable.tableLeft hleft
    refine ⟨_, hexec, ?_, ?_, hu.mem, ?_, ?_, ?_, ?_, ?_, ?_, ?_, ?_⟩
    · exact ⟨hu.outer.cfg, hu.outer.inputs, hu.outer.lockOther, hu.outer.wire, hu.outer.reads⟩
    · exact ⟨hu.mapper.maps, hu.mapper.mapper, hu.mapper.mapCount⟩
    · rw [hlate]
    · have hseq : s.eng = { s.eng with seq := .idle, lockHeld := false } := by rw [← hr.idle, ← hheld]
      have hcount : u.eng.mcCount = if mcl then BitVec.ofNat 8 s.listCount else s.eng.mcCount := by rw [← hlen]; exact htab.count
      have hlock : u.eng.lockHeld = false := hu.lock hheld
      have hstarted := hu.started_end l.wants
      rw [hup', hwant] at hstarted
      refine (hu.eng_end .idle _ _).trans ?_
      rw [hup', hwant, hstarted, hcount, hlock, hlm]
      conv_rhs => rw [hseq]
      rfl
    · intro k
      rw [← hlen]
      exact htab.entry k
    · have hrxq := hu.rxqCtl_end l.wants
      rw [hup', hwant] at hrxq
      simp only [decide_eq_true_eq] at hrxq
      refine (hu.nic_end _ _).trans ?_
      rw [hwant, hrxq, hmcast, programmedList_eq, hleft.tracked, hold', hlm]
      rfl
    · have hkept := hu.kept_end
      rw [hlm, rxCtrlWord_bits] at hkept
      exact hkept
    · intro hm0 hoff hacked
      have h := hu.restarted_end (wants_iff.mpr (by rwa [hlm])) hoff (hup'.trans hacked)
      change endWord l (s.startCmd (encode (.filterSet mcl mask))) u &&& s.cfg.bRxEn ≠ 0
      rw [show s.cfg = (s.startCmd (encode (.filterSet mcl mask))).cfg from rfl, h]
      exact hen
    · intro hm0 hon hacked
      exact hu.stopped_end (wants_eq_false_iff.mpr (by rwa [hlm])) hon (by rwa [hup'])
    · intro hapart
      have h := hu.enabled_end hapart
      rw [hup', hwant] at h
      simp only [decide_eq_true_eq] at h
      exact h
  · intro l x late s hlock
    exact (filterAcquire_takes l s x late hlock).trans (by cases x <;> rfl)
  · intro l v x late s hs
    exact (disableWrite_eng l s v _ hs).trans (by cases late <;> cases x <;> rfl)
  · exact fun l v was late s => ⟨changeMade_eng l _ .ctrl was late, changeMade_eng l _ .mcast was late⟩
  · exact fun l v x late s => by cases late <;> rfl

/-! ### The same command again (R208) -/

section
variable {l : Latch} {c : State}

theorem tabled_same {list : Option (List Mac)} (h : c.listDiffers list = false) : c.tabled list = c := by
  cases list with
  | none => rfl
  | some new => exact if_neg (ne_true_of_eq_false h)

/-- A FILTER.SET that asks for what is there already: its list is read, and the mask written. -/
theorem filterStart_same (hok : filterRefused l c = false) (hctrl : l.ctrlDiffers c = false) (hprog : l.programs c = false)
    (hrx : l.wants = c.eng.rxStarted) : ∃ q,
      (filterStart l c).Leads ((((c.noted (l.macReads c.cfg)).setSeq q).masked l).finish .success) := by
  obtain ⟨hlist, -⟩ := Bool.or_eq_false_iff.mp hprog
  obtain ⟨q, hread⟩ := filterList_leads l false c
  generalize hv : (c.noted (l.macReads c.cfg)).setSeq q = v at hread
  have hstart : filterStart l c = filterList l false c :=
    (if_neg (ne_true_of_eq_false hok)).trans (if_neg (ne_true_of_eq_false hctrl))
  have hlisted : filterListed l (l.macs c) false v = filterEnd l false v := by
    rw [filterListed_eq, tabled_same (by rw [← hv]; exact hlist)]
    exact if_neg (ne_true_of_eq_false (by rw [← hv]; exact hprog))
  have hend : filterEnd l false v = (v.masked l).finish .success := (filterEnd_eq l v false).trans (if_pos (by rw [← hv]; exact hrx))
  rw [← hstart, hlisted, hend, ← hv] at hread
  exact ⟨q, hread⟩

/-- After a command that is not late receive is in the wanted state. -/
theorem State.FilterAt.settled_end {u : State} {ctrl : Bool} (h : c.FilterAt l u ctrl (l.pauses c)) (hlate : l.late c = false) :
    (l.wants && (u.eng.rxStarted || c.startAcked .rx)) = l.wants := by
  have hnot := mt late_iff.mpr (ne_true_of_eq_false hlate)
  rw [h.started_end]
  cases hwant : l.wants with
  | false => rfl
  | true =>
    cases hup : c.startAcked .rx with
    | true => simp
    | false =>
      have hs : c.cfg.queueHandshake = true := by
        by_contra hs
        simp [State.startAcked, hs] at hup
      simp only [hs, hwant, hup, true_and, and_true, not_or, Bool.not_eq_true, Bool.not_eq_false] at hnot
      simp [hnot.1, hnot.2.1]

/-- No bit but UNICAST differs between a mask and the one tracked for it. -/
theorem mask_xor_trackedMask : ∀ m : BitVec 5, ((m ^^^ trackedMask m) &&& 0x1A != 0) = false ∧
    ((m ^^^ trackedMask m) &&& 0x04 != 0) = false := by decide

end

/-- What a FILTER.SET that finishes `Success` leaves for the next one with the same operands. -/
structure State.FilterDone (s t : State) (l : Latch) : Prop where
  ready : t.Ready
  init : t.eng.hwInit = true
  cfg : t.cfg = s.cfg
  mem : t.mem = s.mem
  regs : t.regs = s.regs.ended .success
  mask : t.eng.filterMask = trackedMask l.mask
  started : t.eng.rxStarted = l.wants
  tracked : l.f0 = true → t.trackedList = s.listRead s.listCount

section
variable {s t : State} {mcl : Bool} {mask : Half}

theorem filterDone_of_success (hr : s.Ready) (hcan : s.Canonical) (hw : s.eng.hwInit = true) (hmask : mask.toNat < 32)
    (hlegal : s.FilterLegal mcl) (hexec : exec (.filterSet mcl mask) s = .next t) (hcode : t.regs.code = .success) :
    s.FilterDone t (s.latch (encode (.filterSet mcl mask))) := by
  obtain ⟨u, ps, hu, htable, -, hfirst⟩ := exec_filterSet hr hw hmask hlegal rfl rfl
  rw [hexec, Host.Outcome.next.injEq] at hfirst
  subst hfirst
  have hlate : (s.latch (encode (.filterSet mcl mask))).late (s.startCmd (encode (.filterSet mcl mask))) = false :=
    Bool.eq_false_iff.mpr fun h => by
      change lateStatus _ = .success at hcode
      rw [h] at hcode
      cases hcode
  have hleft := tabled_left (c := s.startCmd (encode (.filterSet mcl mask))) hcan.mc mcl (list := s.listRead s.listCount)
    (by rw [listRead_length]; exact listCount_le hr.cfg)
  rw [← macs_filterSet s mcl mask] at hleft
  refine ⟨⟨?_, rfl, ?_, hu.outer.inputs.trans hr.inputs, hu.outer.lockOther.trans hr.lock⟩, ?_, hu.outer.cfg, hu.mem, ?_, rfl,
    hu.settled_end hlate, fun hf0 => ?_⟩
  · exact hu.outer.cfg.symm ▸ hr.cfg
  · rw [hu.eng]
    exact hr.fault
  · rw [hu.eng]
    exact hw
  · rw [hlate]
    rfl
  · rw [latch_f0_filterSet] at hf0
    exact (htable.tableLeft hleft).tracked.trans (if_pos hf0)

theorem State.FilterDone.exec_again {l : Latch} (h : s.FilterDone t l) (hl : l = s.latch (encode (.filterSet mcl mask)))
    (hmask : mask.toNat < 32) (hlegal : s.FilterLegal mcl) :
    exec (.filterSet mcl mask) t = .next { t with ports := l.macReads t.cfg ++ t.ports } := by
  generalize hc : t.startCmd (encode (.filterSet mcl mask)) = c
  have hlatch : t.latch (encode (.filterSet mcl mask)) = l := by
    rw [hl, State.latch, h.regs]
    rfl
  have hcfg : c.cfg = s.cfg := hc ▸ h.cfg
  have hfm : c.eng.filterMask = trackedMask l.mask := hc ▸ h.mask
  have hok : filterRefused l c = false := by
    rw [filterRefused, hcfg, hl]
    exact (filterRefused_eq_false_iff mcl mask).mpr hlegal
  obtain ⟨hctrl, hfmc⟩ := mask_xor_trackedMask l.mask
  rw [← hfm] at hctrl hfmc
  have hmacs : l.macs c = if mcl then some (s.listRead s.listCount) else none := by
    rw [Latch.macs, hcfg, show c.mem = s.mem from hc ▸ h.mem, hl]
    exact macs_filterSet s mcl mask
  have hprog : l.programs c = false := by
    rw [programs_eq hmacs, hfmc, Bool.or_false]
    cases hm : mcl with
    | false => rfl
    | true =>
      have htracked : c.trackedList = s.listRead s.listCount := hc ▸ h.tracked (by rw [hl, latch_f0_filterSet, hm])
      rw [htracked]
      simp
  obtain ⟨q, hlead⟩ := filterStart_same hok hctrl hprog (by rw [← hc]; exact h.started.symm)
  rw [← hlatch, ← hc] at hlead
  rw [exec_leads h.ready (i := .filterSet mcl mask) (decide_eq_true hmask) (fun _ => h.init) hlead rfl, hlatch]
  have heng : t.eng = { t.eng with seq := .idle, filterMask := trackedMask l.mask } := by rw [← h.ready.idle, ← h.mask]
  have hregs : t.regs = t.regs.ended .success := by
    rw [h.regs]
    rfl
  conv_rhs => rw [heng, hregs]
  rfl

end

/-- Settles O43: the mask, the list and the state of receive are those of the first command. -/
theorem filterSetTwiceIsOnce : Obligations.FilterSetTwiceIsOnce := by
  intro s t mcl mask hr hcan hw hmask hlegal hexec hcode
  have hdone := filterDone_of_success hr hcan hw hmask hlegal hexec hcode
  exact ⟨_, hdone.exec_again rfl hmask hlegal, macReads_isMemRead _ _⟩

end Sys2Proof.Machine
end

/-! ## The queue commands and the interrupt mask (45_lifecycle.md R213 to R223)

A command of either queue runs its start or stop procedure and returns to nothing: it is said once for both queues, and each obligation
reads it at one of them. -/

section

namespace Sys2Proof.Machine

/-! ### The polls, one step at a time (R211) -/

theorem startPolls (q : Queue) : StartPolls q :=
  ⟨fun _ _ _ _ hon => if_pos hon, fun _ _ _ _ hoff hk => (if_neg (not_not.mpr hoff)).trans (if_pos hk),
    fun _ _ _ hoff hk => (if_neg (not_not.mpr hoff)).trans (if_neg hk), fun _ _ _ _ => rfl⟩

theorem stopPolls (q : Queue) : StopPolls q :=
  ⟨fun _ _ _ hoff => if_pos hoff, fun _ _ _ _ hon hk => (if_neg hon).trans (if_pos hk),
    fun _ _ _ hon hk => (if_neg hon).trans (if_neg hk), fun _ _ _ _ => rfl⟩

/-! ### The port actions of the two procedures -/

/-- What a read-modify-write by `f` leaves in the record of port actions, newest first. -/
def State.modifyPorts (t : State) (r : NicReg) (f : Word → Word) : List PortAction :=
  [.regWrite (regOffset t.cfg r) (f (t.regVal r)), .regRead (regOffset t.cfg r) (t.regVal r)]

/-- What a handshake leaves there, on a family that makes one. -/
def State.handshakePorts (t : State) (q : Queue) (f : Word → Word) (acked : Bool) : List PortAction :=
  if t.cfg.queueHandshake then
    pollPorts (t.queueRead q) t.cfg.queuePollUs (t.pollReads acked) ++ t.modifyPorts (queueReg q) f
  else []

/-- What a start leaves there. -/
def State.startPorts (t : State) (q : Queue) : List PortAction :=
  (if t.startAcked q then t.modifyPorts (unitReg q) (· ||| unitBit t.cfg q) else []) ++
    t.handshakePorts q (· ||| t.cfg.bQen) (t.startAcked q)

/-- What a stop leaves there. -/
def State.stopPorts (t : State) (q : Queue) : List PortAction :=
  t.handshakePorts q (· &&& ~~~t.cfg.bQen) (t.stopAcked q) ++ t.modifyPorts (unitReg q) (· &&& ~~~unitBit t.cfg q)

section
variable {t : State} {q : Queue}

/-- A handshake is acknowledged by a poll. -/
theorem acked_polls {up : Bool} (hs : t.cfg.queueHandshake = true)
    (hacked : (!t.cfg.queueHandshake || (decide (0 < t.cfg.queuePollCount) && up)) = true) : 0 < t.cfg.queuePollCount := by
  simp only [hs, Bool.not_true, Bool.false_or, Bool.and_eq_true, decide_eq_true_eq] at hacked
  exact hacked.1

/-- The two accesses of the unit beside those of a handshake (R225). -/
theorem accesses_le (c : Config) : 2 + (if c.queueHandshake then 2 + c.queuePollCount else 0) ≤
    (if c.queueHandshake then 4 + c.queuePollCount else 2) := by
  split <;> omega

theorem countP_modifyPorts (r : NicReg) (f : Word → Word) : (t.modifyPorts r f).countP (fun a => a.isAccess) = 2 ∧
    (t.modifyPorts r f).countP (fun a => a.isDelay) = 0 := ⟨rfl, rfl⟩

/-- The unit of a queue that was not acknowledged is left alone. -/
theorem countP_modifyPorts_ite (made : Bool) (r : NicReg) (f : Word → Word) :
    (if made then t.modifyPorts r f else []).countP (fun a => a.isAccess) ≤ 2 ∧
      (if made then t.modifyPorts r f else []).countP (fun a => a.isDelay) = 0 := by
  cases made with
  | true => exact (countP_modifyPorts r f).imp_left le_of_eq
  | false => exact ⟨Nat.zero_le _, rfl⟩

/-- An acknowledged handshake polls, so that its one read is within `P_QUEUE_POLL_COUNT` (R225, R226). -/
theorem countP_handshakePorts (f : Word → Word) {acked : Bool}
    (hpoll : t.cfg.queueHandshake = true → acked = true → 0 < t.cfg.queuePollCount) :
    (t.handshakePorts q f acked).countP (fun a => a.isAccess) ≤ (if t.cfg.queueHandshake then 2 + t.cfg.queuePollCount else 0) ∧
      (t.handshakePorts q f acked).countP (fun a => a.isDelay) ≤ t.cfg.queuePollCount - 1 := by
  obtain ⟨hacc, hdel⟩ := countP_modifyPorts (t := t) (queueReg q) f
  rw [State.handshakePorts]
  cases hs : t.cfg.queueHandshake with
  | false => simp
  | true =>
    have hreads : t.pollReads acked ≤ t.cfg.queuePollCount := by
      cases acked with
      | true => exact hpoll hs rfl
      | false => exact le_rfl
    simp only [if_true, List.countP_append, countP_pollPorts, hacc, hdel]
    simp only [State.queueRead, PortAction.isAccess, PortAction.isDelay, if_true, Bool.false_eq_true, if_false]
    omega

theorem countP_startPorts :
    (t.startPorts q).countP (fun a => a.isAccess) ≤ (if t.cfg.queueHandshake then 4 + t.cfg.queuePollCount else 2) ∧
      (t.startPorts q).countP (fun a => a.isDelay) ≤ t.cfg.queuePollCount - 1 := by
  obtain ⟨hacc, hdel⟩ := countP_handshakePorts (q := q) (· ||| t.cfg.bQen) (acked := t.startAcked q) acked_polls
  obtain ⟨hunitAcc, hunitDel⟩ := countP_modifyPorts_ite (t := t) (t.startAcked q) (unitReg q) (· ||| unitBit t.cfg q)
  rw [State.startPorts, List.countP_append, List.countP_append, hunitDel, Nat.zero_add]
  exact ⟨(Nat.add_le_add hunitAcc hacc).trans (accesses_le t.cfg), hdel⟩

theorem countP_stopPorts :
    (t.stopPorts q).countP (fun a => a.isAccess) ≤ (if t.cfg.queueHandshake then 4 + t.cfg.queuePollCount else 2) ∧
      (t.stopPorts q).countP (fun a => a.isDelay) ≤ t.cfg.queuePollCount - 1 := by
  obtain ⟨hacc, hdel⟩ := countP_handshakePorts (q := q) (· &&& ~~~t.cfg.bQen) (acked := t.stopAcked q) acked_polls
  obtain ⟨hunitAcc, hunitDel⟩ := countP_modifyPorts (t := t) (unitReg q) (· &&& ~~~unitBit t.cfg q)
  rw [State.stopPorts, List.countP_append, List.countP_append, hunitAcc, hunitDel, Nat.add_comm _ 2]
  exact ⟨(Nat.add_le_add_left hacc 2).trans (accesses_le t.cfg), hdel⟩

/-! ### What the two procedures leave -/

/-- `E.rxStarted` or `E.txqEnabled`. -/
def Engine.started (e : Engine) : Queue → Bool
  | .rx => e.rxStarted
  | .tx => e.txqEnabled

/-- The queue-control word last written (20_memory.md R83). -/
def Nic.queueCtl (d : Nic) : Queue → Word
  | .rx => d.rxqCtl
  | .tx => d.txqCtl

/-- The NIC with these words in the control registers of a queue's unit and of the queue. -/
def Nic.withQueue (d : Nic) (unit ctl : Word) : Queue → Nic
  | .rx => { d with rxCtrl := unit, rxqCtl := ctl }
  | .tx => { d with txCtrl := unit, txqCtl := ctl }

theorem queueWord_congr (c : Config) (on : Bool) {v w : Word} (h : v &&& ~~~c.bQen = w &&& ~~~c.bQen) :
    queueWord c v on = queueWord c w on := congrArg (· ||| _) h

/-- A request on a queue-control register does not show in it: it reads as the status enable bit stands (20_memory.md R83). -/
theorem queueWord_requestOn (c : Config) (w : Word) (on : Bool) : queueWord c (queueWord c w on ||| c.bQen) on = queueWord c w on :=
  queueWord_congr c on ((or_and_not_mask _ _).trans (queueWord_and_not c w on))

theorem queueWord_requestOff (c : Config) (w : Word) (on : Bool) :
    queueWord c (queueWord c w on &&& ~~~c.bQen) on = queueWord c w on := by
  refine queueWord_congr c on ?_
  rw [BitVec.and_assoc, BitVec.and_self, queueWord_and_not]

theorem queueRead_requestOn : (t.regModify (queueReg q) (· ||| t.cfg.bQen)).queueRead q = t.queueRead q := by
  cases q
  · exact congrArg _ (queueWord_requestOn t.cfg t.nic.rxqCtl t.nic.rxqOn)
  · exact congrArg _ (queueWord_requestOn t.cfg t.nic.txqCtl t.nic.txqOn)

theorem queueRead_requestOff : (t.regModify (queueReg q) (· &&& ~~~t.cfg.bQen)).queueRead q = t.queueRead q := by
  cases q
  · exact congrArg _ (queueWord_requestOff t.cfg t.nic.rxqCtl t.nic.rxqOn)
  · exact congrArg _ (queueWord_requestOff t.cfg t.nic.txqCtl t.nic.txqOn)

theorem noted_noted (ps qs : List PortAction) : (t.noted ps).noted qs = t.noted (qs ++ ps) :=
  congrArg (fun ports => { t with ports := ports }) (List.append_assoc qs ps t.ports).symm

/-- A handshake whose polls read what the queue-control register held before. -/
theorem handshake_eq {f : Word → Word} (acked : Bool) (hread : (t.regModify (queueReg q) f).queueRead q = t.queueRead q) :
    t.handshake q f acked = (t.setNic (t.nic.withQueue (t.regVal (unitReg q)) (f (t.regVal (queueReg q))) q)).noted
      (pollPorts (t.queueRead q) t.cfg.queuePollUs (t.pollReads acked) ++ t.modifyPorts (queueReg q) f) := by
  have hmodify : t.regModify (queueReg q) f = (t.setNic (nicWrite t.nic (queueReg q) (f (t.regVal (queueReg q))))).noted
    (t.modifyPorts (queueReg q) f) := rfl
  rw [State.handshake, State.polled, hread, hmodify, noted_noted]
  cases q
  · rfl
  · rfl

theorem startDone_eq : t.startDone q = { t with
    eng := (t.setStarted q (t.startAcked q || t.eng.started q)).eng
    nic := t.nic.withQueue (if t.startAcked q then t.regVal (unitReg q) ||| unitBit t.cfg q else t.regVal (unitReg q))
      (if t.cfg.queueHandshake then t.regVal (queueReg q) ||| t.cfg.bQen else t.nic.queueCtl q) q
    ports := t.startPorts q ++ t.ports } := by
  rw [State.startDone, handshake_eq _ queueRead_requestOn, State.startPorts, State.handshakePorts]
  cases q <;> cases t.cfg.queueHandshake <;> cases t.startAcked _ <;> rfl

theorem stopDone_eq : t.stopDone q = { t with
    eng := (t.setStarted q false).eng
    nic := t.nic.withQueue (t.regVal (unitReg q) &&& ~~~unitBit t.cfg q)
      (if t.cfg.queueHandshake then t.regVal (queueReg q) &&& ~~~t.cfg.bQen else t.nic.queueCtl q) q
    ports := t.stopPorts q ++ t.ports } := by
  have hread := queueRead_requestOff (q := q) (t := (t.regModify (unitReg q) (· &&& ~~~unitBit t.cfg q)).setStarted q false)
  rw [State.setStarted_cfg, regModify_cfg] at hread
  rw [State.stopDone, handshake_eq _ hread, State.stopPorts, List.append_assoc, State.handshakePorts]
  cases q <;> cases t.cfg.queueHandshake <;> rfl

/-! ### The commands -/

/-- The command that starts a queue. -/
def Queue.enable : Queue → Instr
  | .rx => .rxEnable
  | .tx => .txqEnable

/-- The command that stops a queue. -/
def Queue.disable : Queue → Instr
  | .rx => .rxDisable
  | .tx => .txqDisable

end

section
variable {s : State} (q : Queue)

theorem State.Ready.bQen_ne_zero (hr : s.Ready) : s.cfg.bQen ≠ 0 := by
  obtain ⟨-, -, -, -, -, -, -, -, -, hbits⟩ := configWf_spec hr.cfg
  exact (hbits s.cfg.bQen (by simp)).1

theorem lateStatus_not (acked : Bool) : lateStatus (!acked) = if acked then .success else .timeout := by
  cases acked <;> rfl

/-- The end of a command leaves an idle engine as it was, but for the started flag. -/
theorem setStarted_idle (hidle : s.eng.seq = .idle) (on : Bool) :
    (s.setStarted q on).eng = { (s.setStarted q on).eng with seq := .idle } := by
  rw [← hidle]
  cases q <;> rfl

theorem startInstr_enable (l : Latch) : startInstr l q.enable s = startQueue l q .command s := by cases q <;> rfl

theorem startInstr_disable (l : Latch) : startInstr l q.disable s = stopQueue l q .command s := by cases q <;> rfl

/-- RX.ENABLE or TXQ.ENABLE as a whole. -/
theorem exec_enable (hr : s.Ready) (hw : s.eng.hwInit = true) : exec q.enable s = .next { s with
    eng := (s.setStarted q (s.startAcked q || s.eng.started q)).eng
    regs := s.regs.ended (if s.startAcked q then .success else .timeout)
    nic := s.nic.withQueue (if s.startAcked q then s.regVal (unitReg q) ||| unitBit s.cfg q else s.regVal (unitReg q))
      (if s.cfg.queueHandshake then s.regVal (queueReg q) ||| s.cfg.bQen else s.nic.queueCtl q) q
    ports := s.startPorts q ++ s.ports } := by
  have hleads := startQueue_leads (s.latch (encode q.enable)) q .command (t := s.startCmd (encode q.enable))
    (by exact hr.bQen_ne_zero)
  rw [← startInstr_enable] at hleads
  rw [exec_leads hr (by cases q <;> rfl) (fun _ => hw) hleads rfl, startDone_eq, ← lateStatus_not,
    setStarted_idle q hr.idle]
  cases q <;> rfl

/-- RX.DISABLE or TXQ.DISABLE as a whole. -/
theorem exec_disable (hr : s.Ready) (hw : s.eng.hwInit = true) : exec q.disable s = .next { s with
    eng := (s.setStarted q false).eng
    regs := s.regs.ended (if s.stopAcked q then .success else .timeout)
    nic := s.nic.withQueue (s.regVal (unitReg q) &&& ~~~unitBit s.cfg q)
      (if s.cfg.queueHandshake then s.regVal (queueReg q) &&& ~~~s.cfg.bQen else s.nic.queueCtl q) q
    ports := s.stopPorts q ++ s.ports } := by
  have hleads := stopQueue_leads (s.latch (encode q.disable)) q .command (t := s.startCmd (encode q.disable))
    (by exact hr.bQen_ne_zero)
  rw [← startInstr_disable] at hleads
  rw [exec_leads hr (by cases q <;> rfl) (fun _ => hw) hleads rfl, stopDone_eq, ← lateStatus_not,
    setStarted_idle q hr.idle]
  cases q <;> rfl

end

/-- Settles O44: the start of the receive queue, returning to the command. -/
theorem rxEnableStartsReceive : Obligations.RxEnableStartsReceive := by
  refine ⟨fun s ok hr hw hok => ?_, startPolls .rx⟩
  subst hok
  exact ⟨s.startPorts .rx, exec_enable .rx hr hw, rfl, countP_startPorts⟩

/-- Settles O45: the stop of the receive queue, returning to the command. -/
theorem rxDisableStopsReceive : Obligations.RxDisableStopsReceive := by
  refine ⟨fun s ok hr hw hok => ?_, stopPolls .rx⟩
  subst hok
  exact ⟨s.stopPorts .rx, exec_disable .rx hr hw, rfl, countP_stopPorts⟩

/-- Settles O46: the start of the transmit queue, returning to the command. -/
theorem txqEnableStartsTransmit : Obligations.TxqEnableStartsTransmit := by
  refine ⟨fun s ok hr hw hok => ?_, startPolls .tx⟩
  subst hok
  exact ⟨s.startPorts .tx, exec_enable .tx hr hw, rfl, countP_startPorts⟩

/-- Settles O47: the stop of the transmit queue, returning to the command. -/
theorem txqDisableStopsTransmit : Obligations.TxqDisableStopsTransmit := by
  refine ⟨fun s ok hr hw hok => ?_, stopPolls .tx⟩
  subst hok
  exact ⟨s.stopPorts .tx, exec_disable .tx hr hw, rfl, countP_stopPorts⟩

/-! ### INT.MASK (R222, R223) -/

/-- The clear write leaves of the enabled set what is in the mask. -/
theorem maskClear_ims (l : Latch) (s : State) : (engineStep l (.mask .clear) s).nic.ims = s.nic.ims &&& l.arg1 :=
  congrArg (s.nic.ims &&& ·) (BitVec.not_not (b := l.arg1))

/-- The set write then adds the whole mask. -/
theorem cleared_or_mask (v mask : Word) : (v &&& ~~~(~~~mask)) ||| mask = mask := by
  ext i
  cases h : mask[i] <;> simp [h]

/-- Settles O48: the two writes of the command, and what they make of the enabled set. -/
theorem intMaskSetsTheMask : Obligations.IntMaskSetsTheMask := by
  refine ⟨fun s hr => ?_, maskClear_ims⟩
  have hclear : (maskStart (s.latch (encode .intMask)) (s.startCmd (encode .intMask))).engineTurn =
    ((s.startCmd (encode .intMask)).regWrite .imc (~~~s.regs.arg1)).goto (s.latch (encode .intMask)) (.mask .set) := rfl
  rw [exec_leads hr (i := .intMask) rfl (absurd · Bool.false_ne_true) (.head hclear (.head rfl (.refl _))) rfl]
  exact congrArg₂ (fun seq ims => Host.Outcome.next { s with
    eng := { s.eng with seq := seq, intMask := s.regs.arg1 }
    regs := s.regs.ended .success
    nic := { s.nic with ims := ims }
    ports := .regWrite s.cfg.oIms s.regs.arg1 :: .regWrite s.cfg.oImc (~~~s.regs.arg1) :: s.ports })
    hr.idle.symm (cleared_or_mask s.nic.ims s.regs.arg1)

end Sys2Proof.Machine
end

/-! ## The sticky fault and the overrun bit (60_exceptions.md R233, R236 to R239, R242)

Without a reset only TX.RECLAIM's check of the head touches the fault, and it sets it; only an overrun touches the overrun bit, and it
sets it. A command that starts with the fault set is over at its decode, so it comes to no such check. -/

section

namespace Sys2Proof.Machine

/-! ### Steps without a reset (70_reset_and_hazards.md R256) -/

/-- Of the inputs that are no reset only a host write of `CMD` touches the engine record: it starts a command, or is an overrun. -/
theorem outside_eng (s : State) {i : Input} (hi : i ≠ .reset) :
    (s.outside i).eng = s.eng ∨ (∃ w, s.eng.seq = .idle ∧ s.outside i = s.startCmd w) ∨ s.outside i = s.overrun := by
  cases i with
  | engine => exact .inl rfl
  | await => exact .inl rfl
  | nic n =>
    obtain ⟨m, d, w, e⟩ := nicStep_frame s n
    have heng : (s.nicStep n).eng = s.eng := by rw [e]
    exact .inl heng
  | host h =>
    cases h with
    | write off v =>
      simp only [State.outside, State.hostStep, State.hostWrite]
      split
      · unfold State.cmdWrite
        split
        · next hq => exact .inr (.inl ⟨v, hq, rfl⟩)
        · exact .inr (.inr rfl)
      all_goals exact .inl rfl
    | store a bytes =>
      simp only [State.outside, State.hostStep]
      split <;> exact .inl rfl
    | lock =>
      simp only [State.outside, State.hostStep]
      split <;> exact .inl rfl
    | stopNic =>
      simp only [State.outside, State.hostStep]
      obtain e | ⟨_, _, e⟩ := stopNic_cases s <;> rw [e] <;> exact .inl rfl
    | resetNic d =>
      simp only [State.outside, State.hostStep]
      obtain e | ⟨_, _, _, e⟩ := resetNic_cases s d <;> rw [e] <;> exact .inl rfl
    | _ => exact .inl rfl
  | reset => exact absurd rfl hi

/-- A move brings no input that was not to come before it. -/
theorem turn_inputs_subset (s : State) : s.turn.inputs ⊆ s.inputs := by
  obtain ⟨_, e⟩ | ⟨is, hs, e⟩ | ⟨is, hs, _, e⟩ | ⟨is, _, _, e⟩ | ⟨i, is, hs, _, _, e⟩ := turn_cases s <;> rw [e]
  · rw [(engineTurn_outer s).inputs]
    exact List.Subset.refl _
  · rw [(engineTurn_outer _).inputs, hs]
    exact List.subset_cons_self _ is
  · rw [hs]
    exact List.subset_cons_self _ is
  · rw [(engineTurn_outer s).inputs]
    exact List.Subset.refl _
  · rw [outside_inputs, hs]
    exact List.subset_cons_self i is

/-- An idle machine's input has its effect, or is the host's write of a command word. -/
theorem idleStep_cases (i : Input) (s : State) :
    idleStep i s = .next (s.outside i) ∨ ∃ w, idleStep i s = issueWord w s := by
  unfold idleStep
  split
  · exact .inl rfl
  · next w _ =>
    split
    · next c _ => exact .inr ⟨encode c, exec_eq c s⟩
    · exact .inr ⟨w, rfl⟩

section
variable {P : Engine → Prop}
  (hstart : ∀ e l, e.seq = .idle → P e → P { e with seq := .running l .decode })
  (hover : ∀ e, P e → P { e with ovr := true })
  (hengine : ∀ l p s, s.eng.seq = .running l p → P s.eng → P (engineStep l p s).eng)

include hstart hover in
theorem outside_keeps_eng {s : State} {i : Input} (hi : i ≠ .reset) (h : P s.eng) : P (s.outside i).eng := by
  obtain e | ⟨w, hq, e⟩ | e := outside_eng s hi <;> rw [e]
  · exact h
  · exact hstart s.eng _ hq h
  · exact hover s.eng h

include hengine in
theorem engineTurn_keeps_eng {s : State} (h : P s.eng) : P s.engineTurn.eng := by
  cases hq : s.eng.seq with
  | idle => rwa [engineTurn_idle hq]
  | running l p =>
    have e : s.engineTurn = engineStep l p s := by simp only [State.engineTurn, hq]
    rw [e]
    exact hengine l p s hq h

include hstart hover hengine in
theorem turn_keeps_eng {s : State} (hr : .reset ∉ s.inputs) (h : P s.eng) : P s.turn.eng := by
  obtain ⟨_, e⟩ | ⟨is, _, e⟩ | ⟨is, _, _, e⟩ | ⟨is, _, _, e⟩ | ⟨i, is, hs, _, _, e⟩ := turn_cases s <;> rw [e]
  · exact engineTurn_keeps_eng hengine h
  · exact engineTurn_keeps_eng (s := s.setInputs is) hengine h
  · exact h
  · exact engineTurn_keeps_eng hengine h
  · have hi : i ≠ .reset := fun hi => hr (by simp [hs, hi])
    exact outside_keeps_eng (s := s.setInputs is) hstart hover hi h

include hstart hover hengine in
theorem drive_keeps_eng {s : State} (hr : .reset ∉ s.inputs) (h : P s.eng) : P s.drive.eng :=
  (run_keeps (P := fun u => .reset ∉ u.inputs ∧ P u.eng)
    (fun u hu _ => ⟨fun hm => hu.1 (turn_inputs_subset u hm), turn_keeps_eng hstart hover hengine hu.1 hu.2⟩) _ s ⟨hr, h⟩).2

include hstart hover hengine in
/-- What command start, the overrun and the engine's steps keep of the engine record, a step keeps when no reset is to come. -/
theorem step_keeps_eng {s t : State} (hr : .reset ∉ s.inputs) (h : P s.eng) (hstep : step s = .next t) : P t.eng := by
  obtain ⟨_, e⟩ | ⟨_, _, e⟩ | ⟨_, _, _, e⟩ | ⟨_, _, i, is, hs, e⟩ := step_cases s <;> rw [e] at hstep
  · cases hstep
  · cases hstep
    exact drive_keeps_eng hstart hover hengine hr h
  · cases hstep
    exact h
  · rw [hs, List.mem_cons, not_or] at hr
    obtain ⟨hi, his⟩ := hr
    obtain e | ⟨w, e⟩ := idleStep_cases i (s.setInputs is) <;> rw [e] at hstep
    · cases hstep
      exact outside_keeps_eng (s := s.setInputs is) hstart hover (Ne.symm hi) h
    · obtain ⟨_, e⟩ | ⟨_, hq, e⟩ | ⟨_, _, e⟩ := issueWord_cases w (s.setInputs is) <;> rw [e] at hstep
      · cases hstep
      · cases hstep
        exact drive_keeps_eng hstart hover hengine (s := (s.setInputs is).startCmd w) his (hstart s.eng _ hq h)
      · cases hstep
        exact hover s.eng h

end

/-! ### The bits that stay set (R233, R236, R242) -/

/-- From `e` to `e'` the fault and its cause stay, or the fault is raised with a cause; the overrun bit stays once set. -/
structure Engine.Sticks (e e' : Engine) : Prop where
  fault : (e'.fault = e.fault ∧ e'.faultCause = e.faultCause) ∨ (e'.fault = true ∧ e'.faultCause ≠ .none)
  ovr : e.ovr = true → e'.ovr = true

section
variable {e e' e'' : Engine}

theorem Engine.Sticks.of_same (hf : e'.fault = e.fault) (hc : e'.faultCause = e.faultCause) (ho : e'.ovr = e.ovr) : e.Sticks e' :=
  ⟨.inl ⟨hf, hc⟩, ho.trans⟩

theorem Engine.Sticks.of_raised (hf : e'.fault = true) (hc : e'.faultCause ≠ .none) (ho : e'.ovr = e.ovr) : e.Sticks e' :=
  ⟨.inr ⟨hf, hc⟩, ho.trans⟩

theorem Engine.Sticks.refl (e : Engine) : e.Sticks e := .of_same rfl rfl rfl

theorem Engine.Sticks.trans (h : e.Sticks e') (k : e'.Sticks e'') : e.Sticks e'' := by
  refine ⟨?_, k.ovr ∘ h.ovr⟩
  obtain ⟨hf, hc⟩ | hraised := k.fault
  · rw [hf, hc]
    exact h.fault
  · exact .inr hraised

theorem Engine.Sticks.fault_of_fault (h : e.Sticks e') (hf : e.fault = true) : e'.fault = true := by
  obtain ⟨hsame, _⟩ | ⟨hset, _⟩ := h.fault
  · exact hsame.trans hf
  · exact hset

end

theorem State.FaultOk.of_sticks {s t : State} (hok : s.FaultOk) (h : s.eng.Sticks t.eng) : t.FaultOk := by
  unfold State.FaultOk
  obtain ⟨hf, hc⟩ | ⟨hf, hc⟩ := h.fault
  · rw [hf, hc]
    exact hok
  · exact iff_of_true hf hc

/-! ### The engine's steps (R236, R237) -/

section
variable (l : Latch) (s : State)

theorem initStep_sticks (p : InitPoint) : s.eng.Sticks (initStep l p s).eng := by
  cases p with
  | mapBuf i =>
    simp only [initStep]
    obtain ⟨_, _, e⟩ | ⟨_, _, e⟩ | ⟨d, _, e⟩ := initMapBuf_cases l s i <;> rw [e] <;> exact .of_same rfl rfl rfl
  | undo j =>
    simp only [initStep, initUndo]
    split <;> exact .of_same rfl rfl rfl
  | program k =>
    simp only [initStep]
    obtain ⟨_, e⟩ | ⟨r, v, s', _, rfl, ⟨_, e⟩ | ⟨_, e⟩⟩ := initProgram_cases l s k <;> rw [e]
    · exact .of_same rfl rfl rfl
    · split <;> exact .of_same rfl rfl rfl
    · split <;> exact .of_same rfl rfl rfl
  | _ => exact .of_same rfl rfl rfl

theorem acquireOrWait_sticks (p : Point) : s.eng.Sticks (acquireOrWait l p s).eng := by
  obtain ⟨_, e⟩ | ⟨_, e⟩ := acquireOrWait_cases l s p <;> rw [e] <;> exact .of_same rfl rfl rfl

theorem fragsRead_sticks (es : List (Option Frag)) : s.eng.Sticks (fragsRead l es s).eng := by
  obtain ⟨_, e⟩ | ⟨_, _, _, _, e⟩ | ⟨_, _, _, _, e⟩ := fragsRead_cases l s es <;> rw [e] <;> exact .of_same rfl rfl rfl

theorem txStep_sticks (p : TxPoint) : s.eng.Sticks (txStep l p s).eng := by
  cases p with
  | sendAcquire da => exact acquireOrWait_sticks l s _
  | fragRead acc =>
    simp only [txStep]
    obtain ⟨_, e⟩ | ⟨_, e⟩ := fragRead_cases l s acc _ _ rfl rfl <;> rw [e]
    · exact .of_same rfl rfl rfl
    · exact fragsRead_sticks l (s.memRead _ _) _
  | fragAcquire f rest => exact acquireOrWait_sticks l s _
  | unlock slot =>
    simp only [txStep]
    obtain ⟨_, e⟩ | ⟨_, _, e⟩ | ⟨_, _, e⟩ := txUnlock_cases l s slot <;> rw [e] <;> exact .of_same rfl rfl rfl
  | waitRead slot k =>
    simp only [txStep]
    obtain ⟨_, e⟩ | ⟨_, _, e⟩ | ⟨_, _, e⟩ := waitRead_cases l s slot k _ rfl <;> rw [e] <;> exact .of_same rfl rfl rfl
  | _ => exact .of_same rfl rfl rfl

theorem reclaimNext_sticks (h : Word) (k : Nat) : s.eng.Sticks (reclaimNext l h k s).eng := by
  obtain ⟨_, e⟩ | ⟨_, _, _, e⟩ := reclaimNext_cases l s h k <;> rw [e] <;> exact .of_same rfl rfl rfl

/-- The check of the head is the one step that can raise the fault (41_transmit.md R158). -/
theorem reclaimHead_sticks : s.eng.Sticks (reclaimHead l s).eng := by
  obtain ⟨_, e⟩ | ⟨_, _, e⟩ | ⟨_, _, e⟩ := reclaimHead_cases l s <;> rw [e]
  · exact .of_raised rfl FaultCause.noConfusion rfl
  · exact reclaimNext_sticks l (s.regRead .tdh) _ 0
  · exact .of_raised rfl FaultCause.noConfusion rfl

theorem reclaimStep_sticks (p : ReclaimPoint) : s.eng.Sticks (reclaimStep l p s).eng := by
  cases p with
  | head => exact reclaimHead_sticks l s
  | read h k =>
    simp only [reclaimStep, reclaimRead]
    split <;> exact .of_same rfl rfl rfl
  | clear h k d =>
    have hcleared : s.eng.Sticks (s.clearSlot k d).eng := .of_same rfl rfl rfl
    exact hcleared.trans (reclaimNext_sticks l _ h (k + 1))
  | _ => exact .of_same rfl rfl rfl

theorem rxStep_sticks (p : RxPoint) : s.eng.Sticks (rxStep l p s).eng := by
  rw [(rxStep_frame l s p).eng]
  exact .of_same rfl rfl rfl

theorem linkUpSeen_sticks : s.eng.Sticks (linkUpSeen l s).eng := by
  obtain ⟨_, e⟩ | ⟨_, e⟩ := linkUpSeen_cases l s <;> rw [e] <;> exact .of_same rfl rfl rfl

theorem startRetry_sticks : s.eng.Sticks (startRetry l s).eng := by
  obtain ⟨_, e⟩ | ⟨_, e⟩ := startRetry_cases l s <;> rw [e] <;> exact .of_same rfl rfl rfl

theorem windowOver_sticks : s.eng.Sticks (windowOver l s).eng := by
  obtain ⟨_, _, e⟩ | ⟨_, e⟩ := windowOver_cases l s <;> rw [e] <;> exact .of_same rfl rfl rfl

theorem linkStep_sticks (p : LinkPoint) : s.eng.Sticks (linkStep l p s).eng := by
  cases p with
  | read k =>
    simp only [linkStep, linkRead]
    split_ifs
    · exact linkUpSeen_sticks l (s.regRead .status)
    · exact .of_same rfl rfl rfl
    · exact windowOver_sticks l (s.regRead .status)
  | phyRead k =>
    simp only [linkStep, linkPhyRead]
    split_ifs
    · exact startRetry_sticks l s.phyRead
    · exact .of_same rfl rfl rfl
    · exact .of_same rfl rfl rfl
  | retryRead k =>
    simp only [linkStep, linkRetryRead]
    split_ifs
    · exact linkUpSeen_sticks l (s.regRead .status)
    · exact .of_same rfl rfl rfl
    · exact .of_same rfl rfl rfl
  | _ => exact .of_same rfl rfl rfl

theorem startQueue_sticks (q : Queue) (r : Return) : s.eng.Sticks (startQueue l q r s).eng := by
  obtain ⟨_, e⟩ | ⟨_, e⟩ := startQueue_cases l s q r <;> rw [e] <;> exact .of_same rfl rfl rfl

theorem filterEnd_sticks (late : Bool) : s.eng.Sticks (filterEnd l late s).eng := by
  obtain ⟨_, _, e⟩ | ⟨_, _, e⟩ | ⟨_, e⟩ := filterEnd_cases l s late _ rfl <;> rw [e]
  · refine Engine.Sticks.trans ?_ (startQueue_sticks l _ .rx (.final late))
    exact .of_same rfl rfl rfl
  · exact .of_same rfl rfl rfl
  · exact .of_same rfl rfl rfl

theorem filterListed_sticks (list : Option (List Mac)) (late : Bool) : s.eng.Sticks (filterListed l list late s).eng := by
  obtain ⟨_, _, _, e⟩ | ⟨_, _, e⟩ | ⟨_, _, e⟩ := filterListed_cases l s list late <;> rw [e]
  · exact .of_same rfl rfl rfl
  · exact .of_same rfl rfl rfl
  · exact filterEnd_sticks l s late

theorem filterList_sticks (late : Bool) : s.eng.Sticks (filterList l late s).eng := by
  unfold filterList
  split_ifs
  · exact .of_same rfl rfl rfl
  · exact filterListed_sticks l s _ late
  · exact filterListed_sticks l s _ late

theorem changeMade_sticks (x : Change) (was late : Bool) : s.eng.Sticks (changeMade l x was late s).eng := by
  cases was with
  | true => exact startQueue_sticks l s .rx (.resumed x late)
  | false => exact .of_same rfl rfl rfl

theorem filterStep_sticks (p : FilterPoint) : s.eng.Sticks (filterStep l p s).eng := by
  cases p with
  | acquire x late =>
    simp only [filterStep]
    obtain ⟨_, e⟩ | ⟨_, _, e⟩ | ⟨_, _, e⟩ := filterAcquire_cases l s x late <;> rw [e] <;> exact .of_same rfl rfl rfl
  | ctrlRead was late => exact .of_same rfl rfl rfl
  | ctrlWrite v was late => exact changeMade_sticks l (s.regWrite .rxCtrl (rxCtrlWord s.cfg l.mask v)) .ctrl was late
  | program was late => exact changeMade_sticks l (s.mcastProgram (programmedList l s)) .mcast was late
  | release x late =>
    have hreleased : s.eng.Sticks s.release.eng := .of_same rfl rfl rfl
    cases x with
    | ctrl => exact hreleased.trans (filterList_sticks l s.release late)
    | mcast => exact hreleased.trans (filterEnd_sticks l s.release late)
  | listRead acc late =>
    simp only [filterStep, filterListRead]
    split
    · exact .of_same rfl rfl rfl
    · exact filterListed_sticks l (s.memRead _ _) _ late

theorem returnTo_sticks (r : Return) (timedOut : Bool) : s.eng.Sticks (returnTo l r timedOut s).eng := by
  cases r <;> exact .of_same rfl rfl rfl

theorem setStarted_sticks (q : Queue) (on : Bool) : s.eng.Sticks (s.setStarted q on).eng := by
  cases q <;> exact .of_same rfl rfl rfl

theorem queueStep_sticks (p : QueuePoint) : s.eng.Sticks (queueStep l p s).eng := by
  cases p with
  | onWrite q v r =>
    simp only [queueStep, onWrite]
    split
    · exact .of_same rfl rfl rfl
    · exact returnTo_sticks l (s.regWrite _ _) r true
  | onPoll q k r =>
    simp only [queueStep, onPoll]
    split_ifs
    · exact .of_same rfl rfl rfl
    · exact .of_same rfl rfl rfl
    · exact returnTo_sticks l (s.regRead _) r true
  | enableWrite q v r => exact (setStarted_sticks (s.regWrite _ _) q true).trans (returnTo_sticks l _ r false)
  | disableWrite q v r =>
    have hstopped := setStarted_sticks (s.regWrite (unitReg q) (v &&& ~~~unitBit s.cfg q)) q false
    simp only [queueStep, disableWrite]
    split
    · exact hstopped.trans (.of_same rfl rfl rfl)
    · exact hstopped.trans (returnTo_sticks l _ r false)
  | offWrite q v r =>
    simp only [queueStep, offWrite]
    split
    · exact .of_same rfl rfl rfl
    · exact returnTo_sticks l (s.regWrite _ _) r true
  | offPoll q k r =>
    simp only [queueStep, offPoll]
    split_ifs
    · exact returnTo_sticks l (s.regRead _) r false
    · exact .of_same rfl rfl rfl
    · exact returnTo_sticks l (s.regRead _) r true
  | _ => exact .of_same rfl rfl rfl

theorem startInstr_sticks (i : Instr) : s.eng.Sticks (startInstr l i s).eng := by
  cases i with
  | init n =>
    simp only [startInstr]
    obtain ⟨_, e⟩ | ⟨_, e⟩ := initStart_cases l s <;> rw [e] <;> exact .of_same rfl rfl rfl
  | txSend block vle =>
    simp only [startInstr]
    obtain ⟨_, e⟩ | ⟨_, _, e⟩ | ⟨_, _, e⟩ := sendStart_cases l s <;> rw [e] <;> exact .of_same rfl rfl rfl
  | txSendf block vle frags =>
    simp only [startInstr]
    obtain ⟨_, e⟩ | ⟨_, e⟩ := sendfStart_cases l s <;> rw [e] <;> exact .of_same rfl rfl rfl
  | txReclaim max =>
    simp only [startInstr, reclaimStart]
    split_ifs <;> exact .of_same rfl rfl rfl
  | rxPoll =>
    simp only [startInstr, pollStart]
    split <;> exact .of_same rfl rfl rfl
  | linkWait cd =>
    have hset : s.eng.Sticks (s.setLink .negotiating).eng := .of_same rfl rfl rfl
    simp only [startInstr, linkStart]
    split_ifs
    · exact .of_same rfl rfl rfl
    · exact hset.trans (windowOver_sticks l (s.setLink .negotiating))
    · exact .of_same rfl rfl rfl
  | filterSet mcl mask =>
    simp only [startInstr, filterStart]
    split_ifs
    · exact .of_same rfl rfl rfl
    · exact .of_same rfl rfl rfl
    · exact filterList_sticks l s false
  | rxEnable => exact startQueue_sticks l s .rx .command
  | txqEnable => exact startQueue_sticks l s .tx .command
  | _ => exact .of_same rfl rfl rfl

theorem decodeStep_sticks : s.eng.Sticks (decodeStep l s).eng := by
  obtain ⟨_, e⟩ | ⟨_, _, e⟩ | ⟨_, i, _, ⟨_, _, e⟩ | ⟨_, e⟩⟩ := decodeStep_cases l s <;> rw [e]
  · exact .of_same rfl rfl rfl
  · exact .of_same rfl rfl rfl
  · exact .of_same rfl rfl rfl
  · exact startInstr_sticks l s i

theorem engineStep_sticks (p : Point) : s.eng.Sticks (engineStep l p s).eng := by
  cases p with
  | decode => exact decodeStep_sticks l s
  | init q => exact initStep_sticks l s q
  | tx q => exact txStep_sticks l s q
  | reclaim q => exact reclaimStep_sticks l s q
  | rx q => exact rxStep_sticks l s q
  | link q => exact linkStep_sticks l s q
  | filter q => exact filterStep_sticks l s q
  | mask q => cases q <;> exact .of_same rfl rfl rfl
  | queue q => exact queueStep_sticks l s q

end

theorem step_sticks {s t : State} (hr : .reset ∉ s.inputs) (hstep : step s = .next t) : s.eng.Sticks t.eng :=
  step_keeps_eng (P := s.eng.Sticks) (fun _ _ _ h => h.trans (.of_same rfl rfl rfl))
    (fun _ h => h.trans ⟨.inl ⟨rfl, rfl⟩, fun _ => rfl⟩) (fun l p u _ h => h.trans (engineStep_sticks l u p)) hr (.refl _) hstep

/-! ### Commands that start with the fault set (R238, R239) -/

theorem decodeStep_faulted {l : Latch} {s : State} (hf : s.eng.fault = true) : decodeStep l s = s.finish .faulted := by
  simp [decodeStep, hf]

/-- The fault is set with cause `c`, and the command that runs, if one does, has not been decoded. -/
structure Engine.FaultedWith (c : FaultCause) (e : Engine) : Prop where
  fault : e.fault = true
  cause : e.faultCause = c
  undecoded : ∀ l p, e.seq = .running l p → p = .decode

/-- The decode of a command that starts with the fault set ends it, so it never reads the head. -/
theorem engineStep_faultedWith {c : FaultCause} {l : Latch} {p : Point} {s : State} (hq : s.eng.seq = .running l p)
    (h : s.eng.FaultedWith c) : (engineStep l p s).eng.FaultedWith c := by
  obtain rfl := h.undecoded l p hq
  rw [engineStep, decodeStep_faulted h.fault]
  exact ⟨h.fault, h.cause, nofun⟩

theorem step_faultedWith {c : FaultCause} {s t : State} (hr : .reset ∉ s.inputs) (h : s.eng.FaultedWith c)
    (hstep : step s = .next t) : t.eng.FaultedWith c := by
  refine step_keeps_eng (P := Engine.FaultedWith c) (fun _ _ _ h => ⟨h.fault, h.cause, ?_⟩)
    (fun _ h => ⟨h.fault, h.cause, h.undecoded⟩) (fun _ _ _ hq h => engineStep_faultedWith hq h) hr h hstep
  rintro _ _ ⟨⟩
  rfl

/-- Settles O14: the engine's steps keep the three or raise the fault; from idle a faulted command comes to no check of the head. -/
theorem faultAndOverrunAreSticky : Obligations.FaultAndOverrunAreSticky := by
  intro s t hr hok hstep
  have hst := step_sticks hr hstep
  refine ⟨hok.of_sticks hst, hst.fault_of_fault, fun hf hq => ?_, hst.ovr⟩
  have hstart : s.eng.FaultedWith s.eng.faultCause := ⟨hf, rfl, fun l p hrun => by simp [hq] at hrun⟩
  exact (step_faultedWith hr hstart hstep).cause

/-- A command whose first move ends it. -/
theorem drive_of_turn_idle {s : State} (hs : s.settled = false) (ht : s.turn.eng.seq = .idle) : s.drive = s.turn := by
  have hrun : State.run 1 s = s.turn := run_succ hs 0
  have hpos := stepBound_pos s.cfg
  unfold State.drive
  rw [run_enough (k := 1) (by rw [hrun]; exact settled_idle ht) (by omega), hrun]

/-- Settles O22: with no input to come the decode is the first move, whoever holds the lock, and it ends the command. -/
theorem faultedBlockRunsNothing : Obligations.FaultedBlockRunsNothing := by
  intro s w hc hq hi hf
  have hword : ∀ w, issueWord w s = .next (s.endedWith .faulted) := by
    intro w
    have hdecode : (s.startCmd w).engineTurn = (s.startCmd w).finish .faulted :=
      decodeStep_faulted (l := s.latch w) (s := s.startCmd w) hf
    have hturn : (s.startCmd w).turn = (s.startCmd w).finish .faulted := (turn_quiet (s := s.startCmd w) hi).trans hdecode
    obtain ⟨hc', _⟩ | ⟨_, _, e⟩ | ⟨_, hq', _⟩ := issueWord_cases w s
    · simp [hc] at hc'
    · rw [e, drive_of_turn_idle rfl (congrArg (·.eng.seq) hturn), hturn, finish_startCmd hq]
    · exact absurd hq hq'
  exact ⟨hword w, fun i => (exec_eq i s).trans (hword (encode i))⟩

end Sys2Proof.Machine
end

/-! ## The reset input (70_reset_and_hazards.md R256, R257, R259) -/

section

namespace Sys2Proof.Machine

/-- A reset is the next move wherever the sequencer stands, and the whole of that move (R256). -/
theorem turn_of_reset {s : State} {is : List Input} (h : s.inputs = .reset :: is) :
    s.turn = (s.setInputs is).blockReset := by
  simp only [State.turn, h, State.outside]

theorem step_of_reset {s : State} {is : List Input} (h : s.inputs = .reset :: is) (hc : configWf s.cfg = true)
    (hq : s.eng.seq = .idle) : step s = .next s.turn := by
  rw [turn_of_reset h]
  simp only [step, hc, hq, h, if_true]
  rfl

theorem statusWord_blockReset (s : State) : s.blockReset.statusWord = 0 := by
  simp only [State.statusWord, State.blockReset_eng, State.blockReset_regs]
  decide

/-- After a reset the host reads 0 everywhere but at `CAPS`, `MAC_LO` and `MAC_HI`, which the parameters give (R259). -/
theorem hostRead_blockReset (s : State) {off : Nat} (hcaps : off ≠ 0x50) (hlo : off ≠ 0x54) (hhi : off ≠ 0x58) :
    s.blockReset.hostRead off = 0 := by
  unfold State.hostRead
  split
  case h_21 | h_22 | h_23 => contradiction
  case h_2 => exact statusWord_blockReset s
  all_goals simp [State.filterWord, Engine.reset, HostRegs.reset]

theorem resetWith_blockReset (c : Config) : (State.resetWith c).blockReset = State.resetWith c := rfl

/-- Settles O17: the move that takes a reset is `blockReset`, which leaves the sequencer idle. -/
theorem resetInput : Obligations.ResetInput := by
  refine ⟨fun s is h => ⟨turn_of_reset h, ?_, step_of_reset h⟩, rfl, rfl, fun c off hcaps hlo hhi => ?_⟩
  · rw [turn_of_reset h]
    exact settled_idle rfl
  · rw [← resetWith_blockReset]
    exact hostRead_blockReset _ hcaps hlo hhi

end Sys2Proof.Machine
end

/-! ## What each family of engine steps leaves, and where it goes on (00_scope.md R16)

The positions of a command form a family; the positions of FILTER.SET and of the start and stop procedures form one together, since each
leads to the other. A step stays in its family or ends the command, and it writes only the fields of the engine record that are its
family's own. -/

section

namespace Sys2Proof.Machine

inductive Family where
  | decode
  | init
  | transmit
  | reclaim
  | receive
  | link
  | mask
  | control

def Point.family : Point → Family
  | .decode => .decode
  | .init _ => .init
  | .tx _ => .transmit
  | .reclaim _ => .reclaim
  | .rx _ => .receive
  | .link _ => .link
  | .filter _ => .control
  | .mask _ => .mask
  | .queue _ => .control

/-- The family of the running command's position; an idle sequencer has none. -/
def Seq.family : Seq → Option Family
  | .idle => none
  | .running _ p => some p.family

/-- The command is over, or stands at a position of `f`. -/
def Seq.StaysIn (q : Seq) (f : Family) : Prop := q.family = none ∨ q.family = some f

theorem Seq.StaysIn.family_eq {q : Seq} {f : Family} {l : Latch} {p : Point} (h : q.StaysIn f) (hq : q = .running l p) :
    p.family = f := by
  subst hq
  obtain h | h := h
  · cases h
  · exact Option.some.inj h

section
variable (l : Latch) (s : State)

theorem initStep_family (p : InitPoint) : (initStep l p s).eng.seq.StaysIn .init := by
  cases p with
  | txSlot i =>
    simp only [initStep, initTxSlot]
    split <;> exact .inr rfl
  | mapBuf i =>
    simp only [initStep]
    obtain ⟨_, _, e⟩ | ⟨_, _, e⟩ | ⟨d, _, e⟩ := initMapBuf_cases l s i <;> rw [e]
    · exact .inl rfl
    · exact .inr rfl
    · exact .inr rfl
  | rxSlot i =>
    simp only [initStep, initRxSlot]
    split <;> exact .inr rfl
  | undo j =>
    simp only [initStep, initUndo]
    split
    · exact .inl rfl
    · exact .inr rfl
  | program k =>
    simp only [initStep]
    obtain ⟨_, e⟩ | ⟨r, v, s', _, _, ⟨_, e⟩ | ⟨_, e⟩⟩ := initProgram_cases l s k <;> rw [e]
    · exact .inl rfl
    · exact .inr rfl
    · exact .inl rfl

theorem acquireOrWait_family {f : Family} (hq : s.eng.seq.family = some f) {p : Point} (hp : p.family = f) :
    (acquireOrWait l p s).eng.seq.StaysIn f := by
  obtain ⟨_, e⟩ | ⟨_, e⟩ := acquireOrWait_cases l s p <;> rw [e]
  · exact .inr hq
  · exact .inr (congrArg some hp)

theorem fragsRead_family (es : List (Option Frag)) : (fragsRead l es s).eng.seq.StaysIn .transmit := by
  obtain ⟨_, e⟩ | ⟨_, _, _, _, e⟩ | ⟨_, _, _, _, e⟩ := fragsRead_cases l s es <;> rw [e]
  · exact .inl rfl
  · exact .inr rfl
  · exact .inl rfl

theorem txStep_family (hq : s.eng.seq.family = some .transmit) (p : TxPoint) : (txStep l p s).eng.seq.StaysIn .transmit := by
  cases p with
  | sendAcquire da => exact acquireOrWait_family l s hq rfl
  | fragAcquire f rest => exact acquireOrWait_family l s hq rfl
  | fragRead acc =>
    simp only [txStep]
    obtain ⟨_, e⟩ | ⟨_, e⟩ := fragRead_cases l s acc _ _ rfl rfl <;> rw [e]
    · exact .inr rfl
    · exact fragsRead_family l _ _
  | fragWrite f rest => cases rest <;> exact .inr rfl
  | unlock slot =>
    simp only [txStep]
    obtain ⟨_, e⟩ | ⟨_, _, e⟩ | ⟨_, _, e⟩ := txUnlock_cases l s slot <;> rw [e]
    · exact .inl rfl
    · exact .inr rfl
    · exact .inl rfl
  | waitRead slot k =>
    simp only [txStep]
    obtain ⟨_, e⟩ | ⟨_, _, e⟩ | ⟨_, _, e⟩ := waitRead_cases l s slot k _ rfl <;> rw [e]
    · exact .inl rfl
    · exact .inr rfl
    · exact .inl rfl
  | _ => exact .inr rfl

theorem reclaimNext_family (h : Word) (k : Nat) : (reclaimNext l h k s).eng.seq.StaysIn .reclaim := by
  obtain ⟨_, e⟩ | ⟨_, _, _, e⟩ := reclaimNext_cases l s h k <;> rw [e]
  · exact .inl rfl
  · exact .inr rfl

theorem reclaimStep_family (p : ReclaimPoint) : (reclaimStep l p s).eng.seq.StaysIn .reclaim := by
  cases p with
  | head =>
    simp only [reclaimStep]
    obtain ⟨_, e⟩ | ⟨_, _, e⟩ | ⟨_, _, e⟩ := reclaimHead_cases l s <;> rw [e]
    · exact .inl rfl
    · exact reclaimNext_family l _ _ 0
    · exact .inl rfl
  | read h k =>
    simp only [reclaimStep, reclaimRead]
    split
    · exact .inr rfl
    · exact .inl rfl
  | clear h k d => exact reclaimNext_family l _ h (k + 1)
  | _ => exact .inr rfl

theorem rxStep_family (p : RxPoint) : (rxStep l p s).eng.seq.StaysIn .receive := by
  cases p with
  | read =>
    simp only [rxStep]
    obtain ⟨_, e⟩ | ⟨_, _, e⟩ | ⟨_, _, _, _, e⟩ | ⟨_, _, _, _, e⟩ := pollRead_cases l s _ _ rfl rfl <;> rw [e]
    · exact .inl rfl
    all_goals exact .inr rfl
  | tail report => cases report <;> exact .inl rfl
  | _ => exact .inr rfl

theorem linkUpSeen_family : (linkUpSeen l s).eng.seq.StaysIn .link := by
  obtain ⟨_, e⟩ | ⟨_, e⟩ := linkUpSeen_cases l s <;> rw [e]
  · exact .inr rfl
  · exact .inl rfl

theorem startRetry_family : (startRetry l s).eng.seq.StaysIn .link := by
  obtain ⟨_, e⟩ | ⟨_, e⟩ := startRetry_cases l s <;> rw [e]
  · exact .inr rfl
  · exact .inl rfl

theorem windowOver_family : (windowOver l s).eng.seq.StaysIn .link := by
  obtain ⟨_, _, e⟩ | ⟨_, e⟩ := windowOver_cases l s <;> rw [e]
  · exact .inr rfl
  · exact .inl rfl

theorem linkStep_family (p : LinkPoint) : (linkStep l p s).eng.seq.StaysIn .link := by
  cases p with
  | read k =>
    simp only [linkStep, linkRead]
    split_ifs
    · exact linkUpSeen_family l _
    · exact .inr rfl
    · exact windowOver_family l _
  | phyRead k =>
    simp only [linkStep, linkPhyRead]
    split_ifs
    · exact startRetry_family l _
    · exact .inr rfl
    · exact .inl rfl
  | retryRead k =>
    simp only [linkStep, linkRetryRead]
    split_ifs
    · exact linkUpSeen_family l _
    · exact .inr rfl
    · exact .inl rfl
  | settle => exact .inl rfl
  | _ => exact .inr rfl

theorem maskStep_family (p : MaskPoint) : (maskStep l p s).eng.seq.StaysIn .mask := by
  cases p with
  | clear => exact .inr rfl
  | set => exact .inl rfl

theorem startQueue_family (q : Queue) (r : Return) : (startQueue l q r s).eng.seq.StaysIn .control := by
  obtain ⟨_, e⟩ | ⟨_, e⟩ := startQueue_cases l s q r <;> rw [e] <;> exact .inr rfl

theorem filterEnd_family (late : Bool) : (filterEnd l late s).eng.seq.StaysIn .control := by
  obtain ⟨_, _, e⟩ | ⟨_, _, e⟩ | ⟨_, e⟩ := filterEnd_cases l s late _ rfl <;> rw [e]
  · exact startQueue_family l _ _ _
  · exact .inr rfl
  · exact .inl rfl

theorem filterListed_family (list : Option (List Mac)) (late : Bool) : (filterListed l list late s).eng.seq.StaysIn .control := by
  obtain ⟨_, _, _, e⟩ | ⟨_, _, e⟩ | ⟨_, _, e⟩ := filterListed_cases l s list late <;> rw [e]
  · exact .inr rfl
  · exact .inr rfl
  · exact filterEnd_family l s late

theorem filterList_family (late : Bool) : (filterList l late s).eng.seq.StaysIn .control := by
  unfold filterList
  split_ifs
  · exact .inr rfl
  · exact filterListed_family l s _ late
  · exact filterListed_family l s _ late

theorem changeMade_family (x : Change) (was late : Bool) : (changeMade l x was late s).eng.seq.StaysIn .control := by
  cases was with
  | true => exact startQueue_family l s .rx (.resumed x late)
  | false => exact .inr rfl

theorem filterStep_family (hq : s.eng.seq.family = some .control) (p : FilterPoint) :
    (filterStep l p s).eng.seq.StaysIn .control := by
  cases p with
  | acquire x late =>
    simp only [filterStep]
    obtain ⟨_, e⟩ | ⟨_, _, e⟩ | ⟨_, _, e⟩ := filterAcquire_cases l s x late <;> rw [e]
    · exact .inr hq
    · exact .inr rfl
    · exact .inr rfl
  | ctrlRead was late => exact .inr rfl
  | ctrlWrite v was late => exact changeMade_family l _ .ctrl was late
  | program was late => exact changeMade_family l _ .mcast was late
  | release x late =>
    cases x with
    | ctrl => exact filterList_family l s.release late
    | mcast => exact filterEnd_family l s.release late
  | listRead acc late =>
    simp only [filterStep, filterListRead]
    split
    · exact .inr rfl
    · exact filterListed_family l _ _ late

theorem returnTo_family (r : Return) (timedOut : Bool) : (returnTo l r timedOut s).eng.seq.StaysIn .control := by
  cases r with
  | command => exact .inl rfl
  | paused x late => exact .inr rfl
  | resumed x late => exact .inr rfl
  | final late => exact .inl rfl

theorem queueStep_family (p : QueuePoint) : (queueStep l p s).eng.seq.StaysIn .control := by
  cases p with
  | onWrite q v r =>
    simp only [queueStep, onWrite]
    split
    · exact .inr rfl
    · exact returnTo_family l _ r true
  | onPoll q k r =>
    simp only [queueStep, onPoll]
    split_ifs
    · exact .inr rfl
    · exact .inr rfl
    · exact returnTo_family l _ r true
  | enableWrite q v r => exact returnTo_family l _ r false
  | disableWrite q v r =>
    simp only [queueStep, disableWrite]
    split
    · exact .inr rfl
    · exact returnTo_family l _ r false
  | offWrite q v r =>
    simp only [queueStep, offWrite]
    split
    · exact .inr rfl
    · exact returnTo_family l _ r true
  | offPoll q k r =>
    simp only [queueStep, offPoll]
    split_ifs
    · exact returnTo_family l _ r false
    · exact .inr rfl
    · exact returnTo_family l _ r true
  | _ => exact .inr rfl

end

end Sys2Proof.Machine
end

/-! ## What the other families of engine steps leave (10_state.md R38, R43, R44)

The frames of the steps of INIT, LINK.WAIT, FILTER.SET, INT.MASK and the queue procedures, beside `TransmitFrame` and `ReceiveFrame`. -/

section

namespace Sys2Proof.Machine

/-- The engine record and the NIC of `t` are those of `s` but for the sequencer, the binding tables, the interrupt mask and the NIC
registers that INIT programs. -/
structure State.InitFrame (s t : State) : Prop where
  eng : t.eng = { s.eng with
    seq := t.eng.seq
    txTab := t.eng.txTab
    rxTab := t.eng.rxTab
    intMask := t.eng.intMask }
  mcast : t.nic.mcast = s.nic.mcast

/-- The engine record of `t` is that of `s` but for the sequencer and the link state, which is not set to `LinkDown`. -/
structure State.LinkFrame (s t : State) : Prop where
  eng : t.eng = { s.eng with
    seq := t.eng.seq
    link := t.eng.link }
  nic : t.nic = s.nic
  link : t.eng.link = s.eng.link ∨ t.eng.link ≠ .linkDown

/-- The engine record and the NIC of `t` are those of `s` but for the sequencer, the filter, queue, interrupt and lock state, the control
registers, the enabled-interrupt set and the multicast list. -/
structure State.ControlFrame (s t : State) : Prop where
  eng : t.eng = { s.eng with
    seq := t.eng.seq
    filterMask := t.eng.filterMask
    mcTable := t.eng.mcTable
    mcCount := t.eng.mcCount
    rxStarted := t.eng.rxStarted
    txqEnabled := t.eng.txqEnabled
    intMask := t.eng.intMask
    lockHeld := t.eng.lockHeld }
  nic : t.nic = { s.nic with
    rxCtrl := t.nic.rxCtrl
    txCtrl := t.nic.txCtrl
    rxqCtl := t.nic.rxqCtl
    txqCtl := t.nic.txqCtl
    ims := t.nic.ims
    mcast := t.nic.mcast }

theorem nicWrite_mcast (d : Nic) (r : NicReg) (v : Word) : (nicWrite d r v).mcast = d.mcast := by
  cases r <;> rfl

section
variable {s t u : State}

theorem State.ControlFrame.refl (s : State) : s.ControlFrame s := ⟨rfl, rfl⟩

theorem State.ControlFrame.trans (h : s.ControlFrame t) (k : t.ControlFrame u) : s.ControlFrame u where
  eng := by rw [k.eng, h.eng]
  nic := by rw [k.nic, h.nic]

theorem State.LinkFrame.after_same (h : t.LinkFrame u) (heng : t.eng = s.eng) (hnic : t.nic = s.nic) : s.LinkFrame u :=
  ⟨heng ▸ h.eng, hnic ▸ h.nic, heng ▸ h.link⟩

end

section
variable (l : Latch) (s : State)

/-- INIT writes the ring size, the buffer size and `hwInit` with its last step alone (40_ring.md R133). -/
theorem initStep_frame (p : InitPoint) : s.InitFrame (initStep l p s) ∨
    ∃ k t, p = .program k ∧ s.InitFrame t ∧ initStep l p s = initDone l t := by
  cases p with
  | txSlot i => exact .inl ⟨rfl, rfl⟩
  | mapBuf i =>
    simp only [initStep]
    obtain ⟨_, _, e⟩ | ⟨_, _, e⟩ | ⟨d, _, e⟩ := initMapBuf_cases l s i <;> rw [e] <;> exact .inl ⟨rfl, rfl⟩
  | rxSlot i => exact .inl ⟨rfl, rfl⟩
  | undo j =>
    simp only [initStep, initUndo]
    split <;> exact .inl ⟨rfl, rfl⟩
  | program k =>
    simp only [initStep]
    obtain ⟨_, e⟩ | ⟨r, v, s', _, hs, hnext⟩ := initProgram_cases l s k
    · exact .inr ⟨k, s, rfl, ⟨rfl, rfl⟩, e⟩
    · have hwritten : s.InitFrame s' := by
        subst hs
        split <;> exact ⟨rfl, nicWrite_mcast s.nic r v⟩
      obtain ⟨_, e⟩ | ⟨_, e⟩ := hnext
      · rw [e]
        exact .inl ⟨by rw [State.goto_eng, hwritten.eng], hwritten.mcast⟩
      · exact .inr ⟨k, s', rfl, hwritten, e⟩

theorem linkUpSeen_frame : s.LinkFrame (linkUpSeen l s) := by
  obtain ⟨_, e⟩ | ⟨_, e⟩ := linkUpSeen_cases l s <;> rw [e]
  · exact ⟨rfl, rfl, .inl rfl⟩
  · exact ⟨rfl, rfl, .inr LinkState.noConfusion⟩

theorem linkFailed_frame : s.LinkFrame (linkFailed s) := ⟨rfl, rfl, .inr LinkState.noConfusion⟩

theorem startRetry_frame : s.LinkFrame (startRetry l s) := by
  obtain ⟨_, e⟩ | ⟨_, e⟩ := startRetry_cases l s <;> rw [e] <;> exact ⟨rfl, rfl, .inr LinkState.noConfusion⟩

theorem windowOver_frame : s.LinkFrame (windowOver l s) := by
  obtain ⟨_, _, e⟩ | ⟨_, e⟩ := windowOver_cases l s <;> rw [e]
  · exact ⟨rfl, rfl, .inl rfl⟩
  · exact linkFailed_frame s

theorem linkStep_frame (p : LinkPoint) : s.LinkFrame (linkStep l p s) := by
  cases p with
  | read k =>
    simp only [linkStep, linkRead]
    split_ifs
    · exact (linkUpSeen_frame l (s.regRead .status)).after_same rfl rfl
    · exact ⟨rfl, rfl, .inl rfl⟩
    · exact (windowOver_frame l (s.regRead .status)).after_same rfl rfl
  | phyRead k =>
    simp only [linkStep, linkPhyRead]
    split_ifs
    · exact (startRetry_frame l s.phyRead).after_same rfl rfl
    · exact ⟨rfl, rfl, .inl rfl⟩
    · exact (linkFailed_frame s.phyRead).after_same rfl rfl
  | retryRead k =>
    simp only [linkStep, linkRetryRead]
    split_ifs
    · exact (linkUpSeen_frame l (s.regRead .status)).after_same rfl rfl
    · exact ⟨rfl, rfl, .inl rfl⟩
    · exact (linkFailed_frame (s.regRead .status)).after_same rfl rfl
  | settle => exact ⟨rfl, rfl, .inr LinkState.noConfusion⟩
  | _ => exact ⟨rfl, rfl, .inl rfl⟩

theorem maskStep_frame (p : MaskPoint) : s.ControlFrame (maskStep l p s) := by
  cases p <;> exact ⟨rfl, rfl⟩

theorem startQueue_frame (q : Queue) (r : Return) : s.ControlFrame (startQueue l q r s) := by
  obtain ⟨_, e⟩ | ⟨_, e⟩ := startQueue_cases l s q r <;> rw [e] <;> exact ⟨rfl, rfl⟩

theorem filterEnd_frame (late : Bool) : s.ControlFrame (filterEnd l late s) := by
  obtain ⟨_, _, e⟩ | ⟨_, _, e⟩ | ⟨_, e⟩ := filterEnd_cases l s late _ rfl <;> rw [e]
  · refine State.ControlFrame.trans ?_ (startQueue_frame l _ .rx (.final late))
    exact ⟨rfl, rfl⟩
  · exact ⟨rfl, rfl⟩
  · exact ⟨rfl, rfl⟩

theorem filterListed_frame (list : Option (List Mac)) (late : Bool) : s.ControlFrame (filterListed l list late s) := by
  obtain ⟨_, _, _, e⟩ | ⟨_, _, e⟩ | ⟨_, _, e⟩ := filterListed_cases l s list late <;> rw [e]
  · exact ⟨rfl, rfl⟩
  · exact ⟨rfl, rfl⟩
  · exact filterEnd_frame l s late

theorem filterList_frame (late : Bool) : s.ControlFrame (filterList l late s) := by
  unfold filterList
  split_ifs
  · exact ⟨rfl, rfl⟩
  · exact filterListed_frame l s _ late
  · exact filterListed_frame l s _ late

theorem changeMade_frame (x : Change) (was late : Bool) : s.ControlFrame (changeMade l x was late s) := by
  cases was with
  | true => exact startQueue_frame l s .rx (.resumed x late)
  | false => exact ⟨rfl, rfl⟩

theorem filterStep_frame (p : FilterPoint) : s.ControlFrame (filterStep l p s) := by
  cases p with
  | acquire x late =>
    simp only [filterStep]
    obtain ⟨_, e⟩ | ⟨_, _, e⟩ | ⟨_, _, e⟩ := filterAcquire_cases l s x late <;> rw [e] <;> exact ⟨rfl, rfl⟩
  | ctrlRead was late => exact ⟨rfl, rfl⟩
  | ctrlWrite v was late =>
    refine State.ControlFrame.trans ?_ (changeMade_frame l (s.regWrite .rxCtrl (rxCtrlWord s.cfg l.mask v)) .ctrl was late)
    exact ⟨rfl, rfl⟩
  | program was late =>
    refine State.ControlFrame.trans ?_ (changeMade_frame l (s.mcastProgram (programmedList l s)) .mcast was late)
    exact ⟨rfl, rfl⟩
  | release x late =>
    have hreleased : s.ControlFrame s.release := ⟨rfl, rfl⟩
    cases x with
    | ctrl => exact hreleased.trans (filterList_frame l s.release late)
    | mcast => exact hreleased.trans (filterEnd_frame l s.release late)
  | listRead acc late =>
    have hread : s.ControlFrame (s.memRead (entryAddr l.arg0 6 acc.length) 6) := ⟨rfl, rfl⟩
    simp only [filterStep, filterListRead]
    split
    · exact hread.trans ⟨rfl, rfl⟩
    · exact hread.trans (filterListed_frame l _ _ late)

theorem returnTo_frame (r : Return) (timedOut : Bool) : s.ControlFrame (returnTo l r timedOut s) := by
  cases r <;> exact ⟨rfl, rfl⟩

theorem regWrite_queueReg_frame (q : Queue) (v : Word) : s.ControlFrame (s.regWrite (queueReg q) v) := by
  cases q <;> exact ⟨rfl, rfl⟩

theorem unit_frame (q : Queue) (v : Word) (on : Bool) : s.ControlFrame ((s.regWrite (unitReg q) v).setStarted q on) := by
  cases q <;> exact ⟨rfl, rfl⟩

theorem queueStep_frame (p : QueuePoint) : s.ControlFrame (queueStep l p s) := by
  cases p with
  | onWrite q v r =>
    have hwritten := regWrite_queueReg_frame s q (v ||| s.cfg.bQen)
    simp only [queueStep, onWrite]
    split
    · exact hwritten.trans ⟨rfl, rfl⟩
    · exact hwritten.trans (returnTo_frame l _ r true)
  | onPoll q k r =>
    have hread : s.ControlFrame (s.regRead (queueReg q)) := ⟨rfl, rfl⟩
    simp only [queueStep, onPoll]
    split_ifs
    · exact hread.trans ⟨rfl, rfl⟩
    · exact hread.trans ⟨rfl, rfl⟩
    · exact hread.trans (returnTo_frame l _ r true)
  | enableWrite q v r => exact (unit_frame s q _ true).trans (returnTo_frame l _ r false)
  | disableWrite q v r =>
    have hstopped := unit_frame s q (v &&& ~~~unitBit s.cfg q) false
    simp only [queueStep, disableWrite]
    split
    · exact hstopped.trans ⟨rfl, rfl⟩
    · exact hstopped.trans (returnTo_frame l _ r false)
  | offWrite q v r =>
    have hwritten := regWrite_queueReg_frame s q (v &&& ~~~s.cfg.bQen)
    simp only [queueStep, offWrite]
    split
    · exact hwritten.trans ⟨rfl, rfl⟩
    · exact hwritten.trans (returnTo_frame l _ r true)
  | offPoll q k r =>
    have hread : s.ControlFrame (s.regRead (queueReg q)) := ⟨rfl, rfl⟩
    simp only [queueStep, offPoll]
    split_ifs
    · exact hread.trans (returnTo_frame l _ r false)
    · exact hread.trans ⟨rfl, rfl⟩
    · exact hread.trans (returnTo_frame l _ r true)
  | _ => exact ⟨rfl, rfl⟩

/-! ### The decode step (30_encoding.md R95) -/

theorem filterStart_frame : s.ControlFrame (filterStart l s) := by
  unfold filterStart
  split_ifs
  · exact ⟨rfl, rfl⟩
  · exact ⟨rfl, rfl⟩
  · exact filterList_frame l s false

theorem linkStart_frame (h0 : l.f0 = true) : s.LinkFrame (linkStart l s) := by
  have hlink : (linkStart l s).eng.link ≠ .linkDown := by
    unfold linkStart
    rw [if_pos h0]
    dsimp only
    split
    · exact LinkState.noConfusion
    · obtain ⟨_, _, e⟩ | ⟨_, e⟩ := windowOver_cases l (s.setLink .negotiating) <;> rw [e] <;> exact LinkState.noConfusion
  refine ⟨?_, ?_, .inr hlink⟩ <;> unfold linkStart <;> rw [if_pos h0] <;> dsimp only <;> split
  · rfl
  · rw [(windowOver_frame l (s.setLink .negotiating)).eng]
    rfl
  · rfl
  · exact (windowOver_frame l (s.setLink .negotiating)).nic

/-- Of the commands only a LINK.WAIT with CD = 1 writes the link state with its decode (43_link.md R185). -/
theorem startInstr_frame (i : Instr) : s.ControlFrame (startInstr l i s) ∨
    ((∃ cd, i = .linkWait cd) ∧ l.f0 = true ∧ s.LinkFrame (startInstr l i s)) := by
  cases i with
  | init n =>
    simp only [startInstr]
    obtain ⟨_, e⟩ | ⟨_, e⟩ := initStart_cases l s <;> rw [e] <;> exact .inl ⟨rfl, rfl⟩
  | txSend block vle =>
    simp only [startInstr]
    obtain ⟨_, e⟩ | ⟨_, _, e⟩ | ⟨_, _, e⟩ := sendStart_cases l s <;> rw [e] <;> exact .inl ⟨rfl, rfl⟩
  | txSendf block vle frags =>
    simp only [startInstr]
    obtain ⟨_, e⟩ | ⟨_, e⟩ := sendfStart_cases l s <;> rw [e] <;> exact .inl ⟨rfl, rfl⟩
  | txReclaim max =>
    simp only [startInstr, reclaimStart]
    split_ifs <;> exact .inl ⟨rfl, rfl⟩
  | rxPoll =>
    simp only [startInstr, pollStart]
    split <;> exact .inl ⟨rfl, rfl⟩
  | linkWait cd =>
    cases h0 : l.f0 with
    | true => exact .inr ⟨⟨cd, rfl⟩, rfl, linkStart_frame l s h0⟩
    | false =>
      simp only [startInstr, linkStart, h0]
      exact .inl ⟨rfl, rfl⟩
  | filterSet mcl mask => exact .inl (filterStart_frame l s)
  | intMask => exact .inl ⟨rfl, rfl⟩
  | rxEnable => exact .inl (startQueue_frame l s .rx .command)
  | rxDisable => exact .inl ⟨rfl, rfl⟩
  | txqEnable => exact .inl (startQueue_frame l s .tx .command)
  | txqDisable => exact .inl ⟨rfl, rfl⟩

theorem decodeStep_frame : s.ControlFrame (decodeStep l s) ∨
    (decode l.word = .command (.linkWait true) ∧ s.LinkFrame (decodeStep l s)) := by
  obtain ⟨_, e⟩ | ⟨_, _, e⟩ | ⟨_, i, hi, ⟨_, _, e⟩ | ⟨_, e⟩⟩ := decodeStep_cases l s <;> rw [e]
  · exact .inl ⟨rfl, rfl⟩
  · exact .inl ⟨rfl, rfl⟩
  · exact .inl ⟨rfl, rfl⟩
  · obtain h | ⟨⟨cd, rfl⟩, h0, h⟩ := startInstr_frame l s i
    · exact .inl h
    · have hcd : l.f0 = cd := by
        rw [Latch.f0, ← (encodeOfDecode l.word _ hi).2]
        exact f0Field_cmdWord _ _ _ _
      rw [← h0, hcd]
      exact .inr ⟨hi, h⟩

end

/-! ### Inputs -/

/-- Settles O51: by the frames of the families; of the inputs only a command start or an overrun touches the engine record at all. -/
theorem onlyLinkWaitChangesTheLink : Obligations.OnlyLinkWaitChangesTheLink := by
  refine ⟨fun l p s hne => ?_, fun s i hi => ?_⟩
  · cases p with
    | decode =>
      obtain h | ⟨hw, h⟩ := decodeStep_frame l s
      · exact (hne (congrArg (·.link) h.eng)).elim
      · exact ⟨.inr ⟨rfl, hw⟩, h.link.resolve_left hne⟩
    | init q =>
      obtain h | ⟨k, t, _, h, e⟩ := initStep_frame l s q
      · exact (hne (congrArg (·.link) h.eng)).elim
      · refine (hne ?_).elim
        rw [engineStep, e]
        exact congrArg (·.link) h.eng
    | tx q => exact (hne (congrArg (·.link) (txStep_frame q).eng)).elim
    | reclaim q => exact (hne (congrArg (·.link) (reclaimStep_frame q).eng)).elim
    | rx q => exact (hne (congrArg (·.link) (rxStep_frame l s q).eng)).elim
    | link q => exact ⟨.inl ⟨q, rfl⟩, (linkStep_frame l s q).link.resolve_left hne⟩
    | filter q => exact (hne (congrArg (·.link) (filterStep_frame l s q).eng)).elim
    | mask q => exact (hne (congrArg (·.link) (maskStep_frame l s q).eng)).elim
    | queue q => exact (hne (congrArg (·.link) (queueStep_frame l s q).eng)).elim
  · obtain e | ⟨w, _, e⟩ | e := outside_eng s hi <;> rw [e] <;> rfl

end Sys2Proof.Machine
end

/-! ## The ring size and the truncation counter (10_state.md R38, R43; 40_ring.md R127; 42_receive.md R172) -/

section

namespace Sys2Proof.Machine

/-- The ring size, the buffer size, `hwInit` and the truncation counter of `e'` are those of `e`. -/
structure Engine.SameSizes (e e' : Engine) : Prop where
  hwInit : e'.hwInit = e.hwInit
  n : e'.n = e.n
  b : e'.b = e.b
  rxTrunc : e'.rxTrunc = e.rxTrunc

section
variable {s t : State}

theorem State.InitFrame.sizes (h : s.InitFrame t) : s.eng.SameSizes t.eng := by
  rw [h.eng]; exact ⟨rfl, rfl, rfl, rfl⟩

theorem State.TransmitFrame.sizes (h : s.TransmitFrame t) : s.eng.SameSizes t.eng := by
  rw [h.eng]; exact ⟨rfl, rfl, rfl, rfl⟩

theorem State.LinkFrame.sizes (h : s.LinkFrame t) : s.eng.SameSizes t.eng := by
  rw [h.eng]; exact ⟨rfl, rfl, rfl, rfl⟩

theorem State.ControlFrame.sizes (h : s.ControlFrame t) : s.eng.SameSizes t.eng := by
  rw [h.eng]; exact ⟨rfl, rfl, rfl, rfl⟩

end

/-- A step of RX.POLL counts at most one truncated frame. -/
theorem rxStep_rxTrunc (l : Latch) (s : State) (q : RxPoint) :
    (rxStep l q s).eng.rxTrunc = s.eng.rxTrunc ∨ (rxStep l q s).eng.rxTrunc = s.eng.rxTrunc + 1 := by
  have hcount : ∀ (t : State) (len : Half) (n : Nat), t.eng = s.eng →
      (countTrunc t len n).eng.rxTrunc = s.eng.rxTrunc ∨ (countTrunc t len n).eng.rxTrunc = s.eng.rxTrunc + 1 := by
    intro t len n ht
    unfold countTrunc
    split
    · exact .inr (by rw [State.setEng_eng, ht])
    · exact .inl (by rw [ht])
  cases q with
  | read =>
    simp only [rxStep]
    obtain ⟨_, e⟩ | ⟨_, _, e⟩ | ⟨_, _, _, _, e⟩ | ⟨_, _, _, _, e⟩ := pollRead_cases l s _ _ rfl rfl <;> rw [e]
    · exact .inl rfl
    · exact .inl rfl
    · exact .inl rfl
    · exact hcount (s.memRead _ _) _ _ rfl
  | copy len n => exact hcount (s.copyBytes _ _ _) len n rfl
  | header len n => exact .inl rfl
  | rearm report => exact .inl rfl
  | tail report => cases report <;> exact .inl rfl

/-- Only the last step of INIT and the steps of RX.POLL touch the sizes and the counter. -/
theorem engineStep_sizes (l : Latch) (p : Point) (s : State) :
    s.eng.SameSizes (engineStep l p s).eng ∨
    (∃ k t, p = .init (.program k) ∧ s.eng.SameSizes t.eng ∧ engineStep l p s = initDone l t) ∨
    ∃ q, p = .rx q := by
  cases p with
  | decode =>
    obtain h | ⟨_, h⟩ := decodeStep_frame l s
    · exact .inl h.sizes
    · exact .inl h.sizes
  | init q =>
    obtain h | ⟨k, t, rfl, h, e⟩ := initStep_frame l s q
    · exact .inl h.sizes
    · exact .inr (.inl ⟨k, t, rfl, h.sizes, e⟩)
  | tx q => exact .inl (txStep_frame q).sizes
  | reclaim q => exact .inl (reclaimStep_frame q).sizes
  | rx q => exact .inr (.inr ⟨q, rfl⟩)
  | link q => exact .inl (linkStep_frame l s q).sizes
  | filter q => exact .inl (filterStep_frame l s q).sizes
  | mask q => exact .inl (maskStep_frame l s q).sizes
  | queue q => exact .inl (queueStep_frame l s q).sizes

/-- Settles O52: INIT's last step sets the sizes and ends the command, and RX.POLL's steps leave them. -/
theorem ringSizeIsFixedByInit : Obligations.RingSizeIsFixedByInit := by
  rintro l p s t rfl
  obtain ⟨hw, hn, hb, ht⟩ | ⟨k, t, rfl, ⟨_, _, _, ht⟩, e⟩ | ⟨q, rfl⟩ := engineStep_sizes l p s
  · exact ⟨fun h => absurd hb (h.resolve_left (absurd hw) |>.resolve_left (absurd hn)), fun h => absurd ht h⟩
  · rw [e]
    exact ⟨fun _ => ⟨⟨k, rfl⟩, rfl, rfl, rfl⟩, fun h => absurd ht h⟩
  · have heng := (rxStep_frame l s q).eng
    refine ⟨fun h => ?_, fun h => ⟨⟨q, rfl⟩, (rxStep_rxTrunc l s q).resolve_left h⟩⟩
    rw [engineStep, heng] at h
    simp at h

end Sys2Proof.Machine
end

/-! ## The lock (10_state.md R45; 20_memory.md R89)

The engine's record of the lock is compared with what its position says. Each step is looked at with the lock as its position has it: the
three positions of `Acquire()` take it for the next one, the two of `Release()` give it back, and no other step touches it. -/

section

namespace Sys2Proof.Machine

/-- Does the sequencer stand between `Acquire()` and `Release()`? -/
def Seq.underLock : Seq → Bool
  | .idle => false
  | .running _ p => p.underLock

/-- The engine holds the lock if `b` says so, and then no other software does. -/
structure State.LockIs (s : State) (b : Bool) : Prop where
  held : s.eng.lockHeld = b
  alone : b = true → s.lockOther = false

theorem lockOk_iff {s : State} : s.LockOk ↔ s.LockIs s.eng.seq.underLock := by
  have halone : s.eng.lockHeld = s.eng.seq.underLock →
      ((s.eng.lockHeld = true → s.lockOther = false) ↔ (s.eng.seq.underLock = true → s.lockOther = false)) := fun h => by rw [h]
  unfold State.LockOk
  cases hq : s.eng.seq <;> rw [hq] at halone <;>
    exact ⟨fun ⟨hheld, h⟩ => ⟨hheld, (halone hheld).mp h⟩, fun ⟨hheld, h⟩ => ⟨hheld, (halone hheld).mpr h⟩⟩

section
variable {l : Latch} {s t : State} {b : Bool}

/-- An operation that touches neither holder and goes where the lock is to be as it is. -/
theorem State.LockIs.lockOk (h : s.LockIs b) (hheld : t.eng.lockHeld = s.eng.lockHeld) (hother : t.lockOther = s.lockOther)
    (hseq : t.eng.seq.underLock = b) : t.LockOk :=
  lockOk_iff.mpr ⟨by rw [hheld, h.held, hseq], fun h' => hother.trans (h.alone (hseq ▸ h'))⟩

theorem State.LockIs.of_same (h : s.LockIs b) (hheld : t.eng.lockHeld = s.eng.lockHeld) (hother : t.lockOther = s.lockOther) :
    t.LockIs b :=
  ⟨hheld.trans h.held, fun hb => hother.trans (h.alone hb)⟩

theorem acquire_lockIs (h : s.lockOther = false) : s.acquire.LockIs true := ⟨rfl, fun _ => h⟩

theorem release_lockIs : s.release.LockIs false := ⟨rfl, Bool.false_ne_true.elim⟩

/-- In these families the engine never holds the lock. -/
theorem underLock_of_family {q : Seq} {f : Family} (h : q.StaysIn f) (htx : f ≠ .transmit) (hctl : f ≠ .control) :
    q.underLock = false := by
  cases q with
  | idle => rfl
  | running l p =>
    obtain rfl := h.family_eq rfl
    cases p with
    | tx _ => exact absurd rfl htx
    | filter _ => exact absurd rfl hctl
    | queue _ => exact absurd rfl hctl
    | _ => rfl

theorem acquireOrWait_lockOk (hok : s.LockOk) {p : Point} (hp : p.underLock = true) : (acquireOrWait l p s).LockOk := by
  obtain ⟨_, e⟩ | ⟨hfree, e⟩ := acquireOrWait_cases l s p <;> rw [e]
  · exact hok
  · exact (acquire_lockIs hfree).lockOk rfl rfl hp

theorem State.LockIs.goto (h : s.LockIs b) {p : Point} (hp : p.underLock = b) : (s.goto l p).LockOk := h.lockOk rfl rfl hp

theorem pushDesc_lockIs (h : s.LockIs b) (va : Addr) (len : Half) (da : Addr) (cmd : Byte) (tag : Half) :
    (pushDesc s va len da cmd tag).LockIs b :=
  h.of_same (by simp [pushDesc]) (pushDesc_outer s va len da cmd tag).lockOther

theorem afterFragMap_underLock (todo : List Frag) (done : List MappedFrag) (m : MappedFrag) :
    (Point.tx (afterFragMap todo done m)).underLock = false := by
  obtain ⟨_, _, _, e⟩ | ⟨_, _, _, _, e⟩ := afterFragMap_cases todo done m <;> rw [e] <;> rfl

theorem fragsRead_lockOk (h : s.LockIs false) (es : List (Option Frag)) : (fragsRead l es s).LockOk := by
  obtain ⟨_, e⟩ | ⟨_, _, _, _, e⟩ | ⟨_, _, _, _, e⟩ := fragsRead_cases l s es <;> rw [e] <;> exact h.lockOk rfl rfl rfl

theorem txStep_lockOk (hok : s.LockOk) {p : TxPoint} (h : s.LockIs (Point.tx p).underLock) : (txStep l p s).LockOk := by
  cases p with
  | sendAcquire da => exact acquireOrWait_lockOk hok rfl
  | fragAcquire f rest => exact acquireOrWait_lockOk hok rfl
  | fragRead acc =>
    simp only [txStep]
    obtain ⟨_, e⟩ | ⟨_, e⟩ := fragRead_cases l s acc _ _ rfl rfl <;> rw [e]
    · exact h.lockOk rfl rfl rfl
    · refine fragsRead_lockOk ?_ _
      exact h.of_same rfl rfl
  | fragMap f todo done =>
    have hnext := afterFragMap_underLock todo done { va := f.va, len := f.len, da := dev f.va s.mapAnswer }
    exact h.lockOk rfl rfl hnext
  | sendWrite da => exact (pushDesc_lockIs h _ _ _ _ _).goto rfl
  | fragWrite f rest => cases rest <;> exact (pushDesc_lockIs h _ _ _ _ _).goto rfl
  | unlock slot =>
    simp only [txStep]
    obtain ⟨_, e⟩ | ⟨_, _, e⟩ | ⟨_, _, e⟩ := txUnlock_cases l s slot <;> rw [e] <;> exact release_lockIs.lockOk rfl rfl rfl
  | waitRead slot k =>
    simp only [txStep]
    obtain ⟨_, e⟩ | ⟨_, _, e⟩ | ⟨_, _, e⟩ := waitRead_cases l s slot k _ rfl <;> rw [e] <;> exact h.lockOk rfl rfl rfl
  | _ => exact h.lockOk rfl rfl rfl

theorem startQueue_lockOk (q : Queue) {r : Return} (h : s.LockIs r.underLock) : (startQueue l q r s).LockOk := by
  obtain ⟨_, e⟩ | ⟨_, e⟩ := startQueue_cases l s q r <;> rw [e] <;> exact h.lockOk rfl rfl rfl

theorem filterEnd_lockOk (h : s.LockIs false) (late : Bool) : (filterEnd l late s).LockOk := by
  obtain ⟨_, _, e⟩ | ⟨_, _, e⟩ | ⟨_, e⟩ := filterEnd_cases l s late _ rfl <;> rw [e]
  · exact startQueue_lockOk .rx (h.of_same rfl rfl)
  · exact h.lockOk rfl rfl rfl
  · exact h.lockOk rfl rfl rfl

theorem filterListed_lockOk (h : s.LockIs false) (list : Option (List Mac)) (late : Bool) : (filterListed l list late s).LockOk := by
  obtain ⟨_, _, _, e⟩ | ⟨_, _, e⟩ | ⟨_, _, e⟩ := filterListed_cases l s list late <;> rw [e]
  · exact h.lockOk rfl rfl rfl
  · exact h.lockOk rfl rfl rfl
  · exact filterEnd_lockOk h late

theorem filterList_lockOk (h : s.LockIs false) (late : Bool) : (filterList l late s).LockOk := by
  unfold filterList
  split_ifs
  · exact h.lockOk rfl rfl rfl
  · exact filterListed_lockOk h _ late
  · exact filterListed_lockOk h _ late

theorem changePoint_underLock (x : Change) (was late : Bool) : (Point.filter (changePoint x was late)).underLock = true := by
  cases x <;> rfl

theorem changeMade_lockOk (h : s.LockIs true) (x : Change) (was late : Bool) : (changeMade l x was late s).LockOk := by
  cases was with
  | true => exact startQueue_lockOk .rx h
  | false => exact h.lockOk rfl rfl rfl

theorem filterStep_lockOk (hok : s.LockOk) {p : FilterPoint} (h : s.LockIs (Point.filter p).underLock) : (filterStep l p s).LockOk := by
  cases p with
  | acquire x late =>
    simp only [filterStep]
    obtain ⟨_, e⟩ | ⟨hfree, _, e⟩ | ⟨hfree, _, e⟩ := filterAcquire_cases l s x late <;> rw [e]
    · exact hok
    · exact (acquire_lockIs hfree).lockOk rfl rfl rfl
    · exact (acquire_lockIs hfree).lockOk rfl rfl (changePoint_underLock x false late)
  | ctrlRead was late => exact h.lockOk rfl rfl rfl
  | ctrlWrite v was late => 
    refine changeMade_lockOk ?_ .ctrl was late
    exact h.of_same rfl rfl
  | program was late => 
    refine changeMade_lockOk ?_ .mcast was late
    exact h.of_same rfl rfl
  | release x late =>
    cases x with
    | ctrl => exact filterList_lockOk release_lockIs late
    | mcast => exact filterEnd_lockOk release_lockIs late
  | listRead acc late =>
    simp only [filterStep, filterListRead]
    split
    · exact h.lockOk rfl rfl rfl
    · refine filterListed_lockOk ?_ _ late
      exact h.of_same rfl rfl

theorem returnTo_lockOk {r : Return} (h : s.LockIs r.underLock) (timedOut : Bool) : (returnTo l r timedOut s).LockOk := by
  cases r with
  | paused x late => exact h.lockOk rfl rfl (changePoint_underLock x true _)
  | _ => exact h.lockOk rfl rfl rfl

theorem setStarted_lockIs (h : s.LockIs b) (q : Queue) (on : Bool) : (s.setStarted q on).LockIs b := by
  cases q <;> exact h.of_same rfl rfl

theorem queueStep_lockOk {p : QueuePoint} (h : s.LockIs p.ret.underLock) : (queueStep l p s).LockOk := by
  cases p with
  | onWrite q v r =>
    simp only [queueStep, onWrite]
    split
    · exact h.lockOk rfl rfl rfl
    · refine returnTo_lockOk ?_ true
      exact h.of_same rfl rfl
  | onPoll q k r =>
    simp only [queueStep, onPoll]
    split_ifs
    · exact h.lockOk rfl rfl rfl
    · exact h.lockOk rfl rfl rfl
    · refine returnTo_lockOk ?_ true
      exact h.of_same rfl rfl
  | enableWrite q v r =>
    refine returnTo_lockOk (setStarted_lockIs ?_ q true) false
    exact h.of_same rfl rfl
  | disableWrite q v r =>
    have hstopped := setStarted_lockIs (s := s.regWrite (unitReg q) (v &&& ~~~unitBit s.cfg q)) (h.of_same rfl rfl) q false
    simp only [queueStep, disableWrite]
    split
    · exact hstopped.lockOk rfl rfl rfl
    · exact returnTo_lockOk hstopped false
  | offWrite q v r =>
    simp only [queueStep, offWrite]
    split
    · exact h.lockOk rfl rfl rfl
    · refine returnTo_lockOk ?_ true
      exact h.of_same rfl rfl
  | offPoll q k r =>
    simp only [queueStep, offPoll]
    split_ifs
    · refine returnTo_lockOk ?_ false
      exact h.of_same rfl rfl
    · exact h.lockOk rfl rfl rfl
    · refine returnTo_lockOk ?_ true
      exact h.of_same rfl rfl
  | _ => exact h.lockOk rfl rfl rfl

theorem startInstr_lockOk (h : s.LockIs false) (i : Instr) : (startInstr l i s).LockOk := by
  cases i with
  | init n =>
    simp only [startInstr]
    obtain ⟨_, e⟩ | ⟨_, e⟩ := initStart_cases l s <;> rw [e] <;> exact h.lockOk rfl rfl rfl
  | txSend block vle =>
    simp only [startInstr]
    obtain ⟨_, e⟩ | ⟨_, _, e⟩ | ⟨_, _, e⟩ := sendStart_cases l s <;> rw [e] <;> exact h.lockOk rfl rfl rfl
  | txSendf block vle frags =>
    simp only [startInstr]
    obtain ⟨_, e⟩ | ⟨_, e⟩ := sendfStart_cases l s <;> rw [e] <;> exact h.lockOk rfl rfl rfl
  | txReclaim max =>
    simp only [startInstr, reclaimStart]
    split_ifs <;> exact h.lockOk rfl rfl rfl
  | rxPoll =>
    simp only [startInstr, pollStart]
    split <;> exact h.lockOk rfl rfl rfl
  | linkWait cd =>
    simp only [startInstr, linkStart]
    split_ifs
    · exact h.lockOk rfl rfl rfl
    · have hlink := windowOver_frame l (s.setLink .negotiating)
      exact h.lockOk (congrArg (·.lockHeld) hlink.eng) (windowOver_outer l _).lockOther
        (underLock_of_family (windowOver_family l _) nofun nofun)
    · exact h.lockOk rfl rfl rfl
  | filterSet mcl mask =>
    simp only [startInstr, filterStart]
    split_ifs
    · exact h.lockOk rfl rfl rfl
    · exact h.lockOk rfl rfl rfl
    · exact filterList_lockOk h false
  | intMask => exact h.lockOk rfl rfl rfl
  | rxEnable => exact startQueue_lockOk .rx h
  | rxDisable => exact h.lockOk rfl rfl rfl
  | txqEnable => exact startQueue_lockOk .tx h
  | txqDisable => exact h.lockOk rfl rfl rfl

theorem decodeStep_lockOk (h : s.LockIs false) : (decodeStep l s).LockOk := by
  obtain ⟨_, e⟩ | ⟨_, _, e⟩ | ⟨_, i, _, ⟨_, _, e⟩ | ⟨_, e⟩⟩ := decodeStep_cases l s <;> rw [e]
  · exact h.lockOk rfl rfl rfl
  · exact h.lockOk rfl rfl rfl
  · exact h.lockOk rfl rfl rfl
  · exact startInstr_lockOk h i

theorem initStep_lockOk (h : s.LockIs false) (p : InitPoint) : (initStep l p s).LockOk := by
  have hseq := underLock_of_family (initStep_family l s p) nofun nofun
  refine h.lockOk ?_ (initStep_outer l s p).lockOther hseq
  obtain hf | ⟨k, t, _, hf, e⟩ := initStep_frame l s p
  · exact congrArg (·.lockHeld) hf.eng
  · rw [e]
    exact congrArg (·.lockHeld) hf.eng

theorem reclaimNext_lockHeld (h : Word) (k : Nat) : (reclaimNext l h k s).eng.lockHeld = s.eng.lockHeld := by
  obtain ⟨_, e⟩ | ⟨_, _, _, e⟩ := reclaimNext_cases l s h k <;> rw [e] <;> rfl

theorem reclaimStep_lockHeld (p : ReclaimPoint) : (reclaimStep l p s).eng.lockHeld = s.eng.lockHeld := by
  cases p with
  | head =>
    simp only [reclaimStep]
    obtain ⟨_, e⟩ | ⟨_, _, e⟩ | ⟨_, _, e⟩ := reclaimHead_cases l s <;> rw [e]
    · rfl
    · exact reclaimNext_lockHeld (s := s.regRead .tdh) _ 0
    · rfl
  | read h k =>
    simp only [reclaimStep, reclaimRead]
    split <;> rfl
  | clear h k d => exact reclaimNext_lockHeld (s := s.clearSlot k d) h (k + 1)
  | _ => rfl

theorem engineStep_lockOk {p : Point} (hok : s.LockOk) (hq : s.eng.seq = .running l p) : (engineStep l p s).LockOk := by
  have h : s.LockIs p.underLock := by
    have h := lockOk_iff.mp hok
    rwa [hq] at h
  cases p with
  | decode => exact decodeStep_lockOk h
  | init q => exact initStep_lockOk h q
  | tx q => exact txStep_lockOk hok h
  | reclaim q =>
    exact h.lockOk (reclaimStep_lockHeld q) (reclaimStep_outer l s q).lockOther
      (underLock_of_family (reclaimStep_family l s q) nofun nofun)
  | rx q =>
    exact h.lockOk (congrArg (·.lockHeld) (rxStep_frame l s q).eng) (rxStep_outer l s q).lockOther
      (underLock_of_family (rxStep_family l s q) nofun nofun)
  | link q =>
    exact h.lockOk (congrArg (·.lockHeld) (linkStep_frame l s q).eng) (linkStep_outer l s q).lockOther
      (underLock_of_family (linkStep_family l s q) nofun nofun)
  | filter q => exact filterStep_lockOk hok h
  | mask q => cases q <;> exact h.lockOk rfl rfl rfl
  | queue q => exact queueStep_lockOk h

/-- Other software takes the lock only while the engine does not hold it (20_memory.md R89). -/
theorem outside_lockOk (h : s.LockOk) (i : Input) : (s.outside i).LockOk := by
  have hs := lockOk_iff.mp h
  cases i with
  | engine => exact h
  | await => exact h
  | nic n =>
    obtain ⟨m, d, w, e⟩ := nicStep_frame s n
    simp only [State.outside, e]
    exact h
  | host x =>
    cases x with
    | write off v =>
      simp only [State.outside, State.hostStep, State.hostWrite]
      split
      · unfold State.cmdWrite
        split
        · next hq =>
          rw [hq] at hs
          exact hs.lockOk rfl rfl rfl
        · exact h
      all_goals exact h
    | store a bytes =>
      simp only [State.outside, State.hostStep]
      split <;> exact h
    | lock =>
      simp only [State.outside, State.hostStep]
      split
      · exact h
      · next hfree => exact ⟨h.1, fun hheld => absurd hheld hfree⟩
    | unlock => exact ⟨h.1, fun _ => rfl⟩
    | stopNic =>
      simp only [State.outside, State.hostStep]
      obtain e | ⟨_, _, e⟩ := stopNic_cases s <;> rw [e] <;> exact h
    | resetNic d =>
      simp only [State.outside, State.hostStep]
      obtain e | ⟨_, _, _, e⟩ := resetNic_cases s d <;> rw [e] <;> exact h
    | _ => exact h
  | reset => exact ⟨rfl, nofun⟩

end

/-- Settles O10: the engine's steps and the inputs keep the comparison of the lock with the position. -/
theorem lockHeldExactlyAroundItsSequences : Obligations.LockHeldExactlyAroundItsSequences := by
  intro s t h hstep
  refine step_keeps (fun w s hq h => ?_) (fun s h => h) (fun l p s hq h => engineStep_lockOk h hq) (fun i s h => outside_lockOk h i)
    (fun is s h => h) s t h hstep
  have hs := lockOk_iff.mp h
  rw [hq] at hs
  exact hs.lockOk rfl rfl rfl

end Sys2Proof.Machine
end

/-! ## The filter state (10_state.md R42; 44_filter.md R201, R203, R206)

The invariant is a bound on the tracked mask and the two lists, and a condition on the position. Step 3 of FILTER.SET writes the mask, step
2 the tracked list, as long as what it read, and the NIC's list, as long as the tracked one; the stop of the receive queue makes the
condition of the locked changes true, and nothing before their `Release()` starts receive. -/

section

namespace Sys2Proof.Machine

/-- The bounds of the invariant `FilterOk`. -/
structure State.FilterBounds (s : State) : Prop where
  mask : s.eng.filterMask = 0 ∨ hasBit s.eng.filterMask maskUnicast = true
  count : s.eng.mcCount.toNat ≤ s.cfg.maxMcast
  nic : s.nic.mcast.length ≤ s.cfg.maxMcast

/-- Its conditions on the position `p`. -/
structure State.FilterPos (s : State) (l : Latch) (p : Point) : Prop where
  list : ∀ acc late, p = .filter (.listRead acc late) → acc.length < mcastCount s.cfg l
  pause : s.PausedAt p

theorem filterOk_iff {s : State} :
    s.FilterOk ↔ s.FilterBounds ∧ ∀ l p, s.eng.seq = .running l p → s.FilterPos l p := by
  constructor
  · rintro ⟨hmask, hcount, hnic, hlist, hpause⟩
    refine ⟨⟨hmask, hcount, hnic⟩, fun l p hq => ⟨?_, hpause l p hq⟩⟩
    rintro acc late rfl
    exact hlist l acc late hq
  · rintro ⟨⟨hmask, hcount, hnic⟩, hpos⟩
    exact ⟨hmask, hcount, hnic, fun l acc late hq => (hpos l _ hq).list acc late rfl, fun l p hq => (hpos l p hq).pause⟩

theorem State.FilterOk.of_same {s t : State} (h : s.FilterOk) (hseq : t.eng.seq = s.eng.seq)
    (hmask : t.eng.filterMask = s.eng.filterMask) (hcount : t.eng.mcCount = s.eng.mcCount)
    (hstarted : t.eng.rxStarted = s.eng.rxStarted) (hmcast : t.nic.mcast = s.nic.mcast) (hcfg : t.cfg = s.cfg) : t.FilterOk where
  mask := hmask ▸ h.mask
  count := by rw [hcount, hcfg]; exact h.count
  nic := by rw [hmcast, hcfg]; exact h.nic
  list := by rw [hseq, hcfg]; exact h.list
  pause l p hq := by
    rw [hseq] at hq
    unfold State.PausedAt
    rw [hstarted]
    exact h.pause l p hq

/-- Outside the family of FILTER.SET and the queues the conditions on the position are empty. -/
theorem filterPos_of_family (s : State) (l : Latch) {p : Point} (h : p.family ≠ .control) : s.FilterPos l p := by
  cases p with
  | filter _ => exact absurd rfl h
  | queue _ => exact absurd rfl h
  | _ => exact ⟨nofun, trivial⟩

section
variable {l : Latch} {s t : State}

theorem State.FilterBounds.of_same (h : s.FilterBounds) (hmask : t.eng.filterMask = s.eng.filterMask)
    (hcount : t.eng.mcCount = s.eng.mcCount) (hnic : t.nic.mcast = s.nic.mcast) (hcfg : t.cfg = s.cfg) : t.FilterBounds :=
  ⟨hmask ▸ h.mask, by rw [hcount, hcfg]; exact h.count, by rw [hnic, hcfg]; exact h.nic⟩

theorem State.FilterBounds.goto (h : s.FilterBounds) {p : Point} (hp : s.FilterPos l p) : (s.goto l p).FilterOk := by
  refine filterOk_iff.mpr ⟨h.of_same rfl rfl rfl rfl, ?_⟩
  rintro _ _ ⟨⟩
  exact ⟨hp.list, hp.pause⟩

theorem State.FilterBounds.finish (h : s.FilterBounds) (c : Status) : (s.finish c).FilterOk :=
  filterOk_iff.mpr ⟨h.of_same rfl rfl rfl rfl, nofun⟩

/-- A step of another family that leaves the bounds as they are. -/
theorem State.FilterBounds.stays (h : t.FilterBounds) {f : Family} (hf : t.eng.seq.StaysIn f) (hne : f ≠ .control) : t.FilterOk := by
  refine filterOk_iff.mpr ⟨h, fun l p hq => filterPos_of_family t l ?_⟩
  rw [hf.family_eq hq]
  exact hne

theorem startQueue_filterOk (h : s.FilterBounds) (q : Queue) {r : Return} (hr : r.isPause = false) :
    (startQueue l q r s).FilterOk := by
  have hpos : ∀ p : QueuePoint, p.ret = r → s.FilterPos l (.queue p) := by
    rintro p rfl
    refine ⟨nofun, fun hp => ?_⟩
    rw [hr] at hp
    cases hp
  obtain ⟨_, e⟩ | ⟨_, e⟩ := startQueue_cases l s q r <;> rw [e]
  · exact h.goto (hpos _ rfl)
  · exact h.goto (hpos _ rfl)

/-- A stop of a queue that returns to a locked change is one of the receive queue. -/
theorem stopQueue_filterOk (h : s.FilterBounds) {q : Queue} {r : Return} (hr : r.isPause = true → q = .rx) :
    (stopQueue l q r s).FilterOk := h.goto ⟨nofun, hr⟩

/-- Step 3 tracks 0 or a mask with UNICAST (44_filter.md R206). -/
theorem hasBit_trackedMask (m : BitVec 5) : trackedMask m = 0 ∨ hasBit (trackedMask m) maskUnicast = true := by
  revert m
  decide

theorem filterEnd_filterOk (h : s.FilterBounds) (late : Bool) : (filterEnd l late s).FilterOk := by
  have hmasked : (s.masked l).FilterBounds := ⟨hasBit_trackedMask l.mask, h.count, h.nic⟩
  rw [filterEnd_eq]
  split_ifs
  · exact hmasked.finish _
  · exact startQueue_filterOk hmasked .rx rfl
  · exact stopQueue_filterOk hmasked nofun

theorem filterListed_filterOk (h : s.FilterBounds) {list : Option (List Mac)}
    (hlist : ∀ new, list = some new → new.length ≤ s.cfg.maxMcast) (late : Bool) : (filterListed l list late s).FilterOk := by
  obtain ⟨new, hnew, _, e⟩ | ⟨_, _, e⟩ | ⟨_, _, e⟩ := filterListed_cases l s list late <;> rw [e]
  · have htracked : (s.setMcastTable new).FilterBounds :=
      ⟨h.mask, (Nat.mod_le new.length (2 ^ 8)).trans (hlist new hnew), h.nic⟩
    exact htracked.goto ⟨nofun, trivial⟩
  · exact h.goto ⟨nofun, trivial⟩
  · exact filterEnd_filterOk h late

theorem mcastCount_le_maxMcast (c : Config) (l : Latch) : mcastCount c l ≤ c.maxMcast := Nat.min_le_right _ _

theorem filterList_filterOk (h : s.FilterBounds) (late : Bool) : (filterList l late s).FilterOk := by
  unfold filterList
  split_ifs with _ hcount
  · refine h.goto ⟨?_, trivial⟩
    rintro _ _ ⟨⟩
    exact hcount
  · refine filterListed_filterOk h ?_ late
    rintro _ ⟨⟩
    exact Nat.zero_le _
  · exact filterListed_filterOk (list := none) h (fun _ hnone => nomatch hnone) late

theorem filterStart_filterOk (h : s.FilterBounds) : (filterStart l s).FilterOk := by
  unfold filterStart
  split_ifs
  · exact h.finish .refused
  · exact h.goto ⟨nofun, trivial⟩
  · exact filterList_filterOk h false

theorem changeMade_filterOk (h : s.FilterBounds) (x : Change) (was late : Bool) : (changeMade l x was late s).FilterOk := by
  cases was with
  | true => exact startQueue_filterOk h .rx rfl
  | false => exact h.goto ⟨nofun, trivial⟩

/-- The change itself is made with receive stopped (44_filter.md R201). -/
theorem changePoint_filterPos (hoff : s.eng.rxStarted = false) (x : Change) (was late : Bool) :
    s.FilterPos l (.filter (changePoint x was late)) := by
  cases x <;> exact ⟨nofun, hoff⟩

theorem programmedList_length_le (h : s.FilterBounds) (l : Latch) : (programmedList l s).length ≤ s.cfg.maxMcast := by
  unfold programmedList
  split
  · rw [mcastList_length]
    exact h.count
  · exact Nat.zero_le _

theorem filterStep_filterOk (hok : s.FilterOk) {p : FilterPoint} (hp : s.FilterPos l (.filter p)) : (filterStep l p s).FilterOk := by
  have h := (filterOk_iff.mp hok).1
  cases p with
  | acquire x late =>
    have hacquired : s.acquire.FilterBounds := h.of_same rfl rfl rfl rfl
    simp only [filterStep]
    obtain ⟨_, e⟩ | ⟨_, _, e⟩ | ⟨_, hoff, e⟩ := filterAcquire_cases l s x late <;> rw [e]
    · exact hok
    · exact stopQueue_filterOk hacquired fun _ => rfl
    · exact hacquired.goto (changePoint_filterPos (s := s.acquire) hoff x false late)
  | ctrlRead was late =>
    have hread : (s.regRead .rxCtrl).FilterBounds := h.of_same rfl rfl rfl rfl
    exact hread.goto ⟨nofun, hp.pause⟩
  | ctrlWrite v was late =>
    refine changeMade_filterOk ?_ .ctrl was late
    exact h.of_same rfl rfl rfl rfl
  | program was late =>
    refine changeMade_filterOk ?_ .mcast was late
    exact ⟨h.mask, h.count, programmedList_length_le h l⟩
  | release x late =>
    have hreleased : s.release.FilterBounds := h.of_same rfl rfl rfl rfl
    cases x with
    | ctrl => exact filterList_filterOk hreleased late
    | mcast => exact filterEnd_filterOk hreleased late
  | listRead acc late =>
    have hread : (s.memRead (entryAddr l.arg0 6 acc.length) 6).FilterBounds := h.of_same rfl rfl rfl rfl
    have hacc := hp.list acc late rfl
    simp only [filterStep, filterListRead]
    split
    next hnext =>
      refine hread.goto ⟨?_, trivial⟩
      rintro _ _ ⟨⟩
      simpa using hnext
    next =>
      refine filterListed_filterOk hread ?_ late
      rintro _ ⟨⟩
      simpa using hacc.trans_le (mcastCount_le_maxMcast s.cfg l)

theorem returnTo_filterOk (h : s.FilterBounds) {r : Return} (hr : r.isPause = true → s.eng.rxStarted = false) (timedOut : Bool) :
    (returnTo l r timedOut s).FilterOk := by
  cases r with
  | command => exact h.finish _
  | paused x late => exact h.goto (changePoint_filterPos (hr rfl) x true _)
  | resumed x late => exact h.goto ⟨nofun, trivial⟩
  | final late => exact h.finish _

theorem setStarted_filterBounds (h : s.FilterBounds) (q : Queue) (on : Bool) : (s.setStarted q on).FilterBounds := by
  cases q <;> exact h.of_same rfl rfl rfl rfl

theorem queueStep_filterOk (h : s.FilterBounds) {p : QueuePoint} (hp : s.PausedAt (.queue p)) : (queueStep l p s).FilterOk := by
  have hread : ∀ r, (s.regRead r).FilterBounds := fun _ => h.of_same rfl rfl rfl rfl
  have hwrite : ∀ r v, (s.regWrite r v).FilterBounds := fun r v => h.of_same rfl rfl (nicWrite_mcast s.nic r v) rfl
  have hdelay : ∀ us, (s.delay us).FilterBounds := fun _ => h.of_same rfl rfl rfl rfl
  cases p with
  | onRead q r => exact (hread _).goto ⟨nofun, hp⟩
  | onWrite q v r =>
    simp only [queueStep, onWrite]
    split
    · exact (hwrite _ _).goto ⟨nofun, hp⟩
    · exact returnTo_filterOk (hwrite _ _) (fun hr => (hp hr).elim) true
  | onPoll q k r =>
    simp only [queueStep, onPoll]
    split_ifs
    · exact (hread _).goto ⟨nofun, hp⟩
    · exact (hread _).goto ⟨nofun, hp⟩
    · exact returnTo_filterOk (hread _) (fun hr => (hp hr).elim) true
  | onDelay q k r => exact (hdelay _).goto ⟨nofun, hp⟩
  | enableRead q r => exact (hread _).goto ⟨nofun, hp⟩
  | enableWrite q v r => exact returnTo_filterOk (setStarted_filterBounds (hwrite _ _) q true) (fun hr => (hp hr).elim) false
  | disableRead q r => exact (hread _).goto ⟨nofun, hp⟩
  | disableWrite q v r =>
    have hstopped := setStarted_filterBounds (hwrite (unitReg q) (v &&& ~~~unitBit s.cfg q)) q false
    have hoff : r.isPause = true → ((s.regWrite (unitReg q) (v &&& ~~~unitBit s.cfg q)).setStarted q false).eng.rxStarted = false := by
      intro hr
      obtain rfl : q = .rx := hp hr
      rfl
    simp only [queueStep, disableWrite]
    split
    · exact hstopped.goto ⟨nofun, hoff⟩
    · exact returnTo_filterOk hstopped hoff false
  | offRead q r => exact (hread _).goto ⟨nofun, hp⟩
  | offWrite q v r =>
    simp only [queueStep, offWrite]
    split
    · exact (hwrite _ _).goto ⟨nofun, hp⟩
    · exact returnTo_filterOk (hwrite _ _) hp true
  | offPoll q k r =>
    simp only [queueStep, offPoll]
    split_ifs
    · exact returnTo_filterOk (hread _) hp false
    · exact (hread _).goto ⟨nofun, hp⟩
    · exact returnTo_filterOk (hread _) hp true
  | offDelay q k r => exact (hdelay _).goto ⟨nofun, hp⟩

/-! ### The other families -/

theorem State.FilterBounds.init (h : s.FilterBounds) (hf : s.InitFrame t) (hcfg : t.cfg = s.cfg) : t.FilterBounds :=
  h.of_same (congrArg (·.filterMask) hf.eng) (congrArg (·.mcCount) hf.eng) hf.mcast hcfg

theorem State.FilterBounds.transmit (h : s.FilterBounds) (hf : s.TransmitFrame t) (hcfg : t.cfg = s.cfg) : t.FilterBounds :=
  h.of_same (congrArg (·.filterMask) hf.eng) (congrArg (·.mcCount) hf.eng) (congrArg (·.mcast) hf.nic) hcfg

theorem State.FilterBounds.receive (h : s.FilterBounds) (hf : s.ReceiveFrame t) (hcfg : t.cfg = s.cfg) : t.FilterBounds :=
  h.of_same (congrArg (·.filterMask) hf.eng) (congrArg (·.mcCount) hf.eng) (congrArg (·.mcast) hf.nic) hcfg

theorem State.FilterBounds.link (h : s.FilterBounds) (hf : s.LinkFrame t) (hcfg : t.cfg = s.cfg) : t.FilterBounds :=
  h.of_same (congrArg (·.filterMask) hf.eng) (congrArg (·.mcCount) hf.eng) (congrArg (·.mcast) hf.nic) hcfg

theorem initStep_filterBounds (h : s.FilterBounds) (p : InitPoint) : (initStep l p s).FilterBounds := by
  have hcfg := (initStep_outer l s p).cfg
  obtain hf | ⟨k, t, _, hf, e⟩ := initStep_frame l s p
  · exact h.init hf hcfg
  · rw [e] at hcfg ⊢
    exact (h.init hf hcfg).of_same rfl rfl rfl rfl

theorem startInstr_filterOk (h : s.FilterBounds) (i : Instr) : (startInstr l i s).FilterOk := by
  cases i with
  | init n =>
    simp only [startInstr]
    obtain ⟨_, e⟩ | ⟨_, e⟩ := initStart_cases l s <;> rw [e]
    · exact h.finish .refused
    · exact h.goto ⟨nofun, trivial⟩
  | txSend block vle =>
    simp only [startInstr]
    obtain ⟨_, e⟩ | ⟨_, _, e⟩ | ⟨_, _, e⟩ := sendStart_cases l s <;> rw [e]
    · exact h.finish .refused
    · exact h.goto ⟨nofun, trivial⟩
    · exact h.finish .busy
  | txSendf block vle frags =>
    simp only [startInstr]
    obtain ⟨_, e⟩ | ⟨_, e⟩ := sendfStart_cases l s <;> rw [e]
    · exact h.finish .refused
    · exact h.goto ⟨nofun, trivial⟩
  | txReclaim max =>
    simp only [startInstr, reclaimStart]
    split_ifs
    · exact h.finish .refused
    · refine State.FilterBounds.finish ?_ .success
      exact h.of_same rfl rfl rfl rfl
    · exact h.goto ⟨nofun, trivial⟩
  | rxPoll =>
    simp only [startInstr, pollStart]
    split
    · exact h.finish .refused
    · exact h.goto ⟨nofun, trivial⟩
  | linkWait cd =>
    have hlink : (s.setLink .negotiating).FilterBounds := h.of_same rfl rfl rfl rfl
    simp only [startInstr, linkStart]
    split_ifs
    · exact hlink.goto ⟨nofun, trivial⟩
    · exact (hlink.link (windowOver_frame l _) (windowOver_outer l _).cfg).stays (windowOver_family l _) nofun
    · refine State.FilterBounds.finish ?_ .success
      exact h.of_same rfl rfl rfl rfl
  | filterSet mcl mask => exact filterStart_filterOk h
  | intMask => exact h.goto ⟨nofun, trivial⟩
  | rxEnable => exact startQueue_filterOk h .rx rfl
  | rxDisable => exact stopQueue_filterOk h nofun
  | txqEnable => exact startQueue_filterOk h .tx rfl
  | txqDisable => exact stopQueue_filterOk h nofun

theorem decodeStep_filterOk (h : s.FilterBounds) : (decodeStep l s).FilterOk := by
  obtain ⟨_, e⟩ | ⟨_, _, e⟩ | ⟨_, i, _, ⟨_, _, e⟩ | ⟨_, e⟩⟩ := decodeStep_cases l s <;> rw [e]
  · exact h.finish .faulted
  · exact h.finish .refused
  · exact h.finish .refused
  · exact startInstr_filterOk h i

theorem engineStep_filterOk (hok : s.FilterOk) {p : Point} (hq : s.eng.seq = .running l p) : (engineStep l p s).FilterOk := by
  obtain ⟨h, hpos⟩ := filterOk_iff.mp hok
  have hfam : s.eng.seq.family = some p.family := by rw [hq]; rfl
  cases p with
  | decode => exact decodeStep_filterOk h
  | init q => exact (initStep_filterBounds h q).stays (initStep_family l s q) nofun
  | tx q => exact (h.transmit (txStep_frame q) (txStep_outer l s q).cfg).stays (txStep_family l s hfam q) nofun
  | reclaim q => exact (h.transmit (reclaimStep_frame q) (reclaimStep_outer l s q).cfg).stays (reclaimStep_family l s q) nofun
  | rx q => exact (h.receive (rxStep_frame l s q) (rxStep_outer l s q).cfg).stays (rxStep_family l s q) nofun
  | link q => exact (h.link (linkStep_frame l s q) (linkStep_outer l s q).cfg).stays (linkStep_family l s q) nofun
  | filter q => exact filterStep_filterOk hok (hpos l _ hq)
  | mask q =>
    have hmask : (maskStep l q s).FilterBounds := by cases q <;> exact h.of_same rfl rfl rfl rfl
    exact hmask.stays (maskStep_family l s q) nofun
  | queue q => exact queueStep_filterOk h (hpos l _ hq).pause

end

/-! ### The inputs -/

theorem nicStep_tails (s : State) (n : NicStep) : (s.nicStep n).nic.tdt = s.nic.tdt ∧ (s.nicStep n).nic.rdt = s.nic.rdt ∧
    (s.nicStep n).nic.mcast = s.nic.mcast := by
  cases n with
  | transmit =>
    simp only [State.nicStep]
    obtain ⟨_, e⟩ | ⟨_, _, _, e⟩ := nicTransmit_cases s _ _ rfl rfl <;> rw [e] <;> exact ⟨rfl, rfl, rfl⟩
  | receive data wb =>
    simp only [State.nicStep]
    obtain e | ⟨_, _, _, _, e⟩ := nicReceive_cases s data wb _ rfl <;> rw [e] <;> exact ⟨rfl, rfl, rfl⟩
  | queue q =>
    simp only [State.nicStep, State.nicQueue]
    split
    · cases q <;> exact ⟨rfl, rfl, rfl⟩
    · exact ⟨rfl, rfl, rfl⟩
  | _ => exact ⟨rfl, rfl, rfl⟩

/-- Of the inputs only the host's reset of the NIC, before INIT while no command runs, can change a tail or the multicast list
(70_reset_and_hazards.md R261). -/
theorem outside_nic (s : State) (i : Input) :
    ((s.outside i).nic.tdt = s.nic.tdt ∧ (s.outside i).nic.rdt = s.nic.rdt ∧ (s.outside i).nic.mcast = s.nic.mcast) ∨
    ∃ d : Nic, s.eng.hwInit = false ∧ s.eng.seq = .idle ∧ d.mcast.length ≤ s.cfg.maxMcast ∧ s.outside i = s.setNic d := by
  cases i with
  | nic n => exact .inl (nicStep_tails s n)
  | host h =>
    cases h with
    | write off v =>
      refine .inl ?_
      simp only [State.outside, State.hostStep, State.hostWrite]
      split
      · unfold State.cmdWrite
        split <;> exact ⟨rfl, rfl, rfl⟩
      all_goals exact ⟨rfl, rfl, rfl⟩
    | store a bytes =>
      refine .inl ?_
      simp only [State.outside, State.hostStep]
      split <;> exact ⟨rfl, rfl, rfl⟩
    | lock =>
      refine .inl ?_
      simp only [State.outside, State.hostStep]
      split <;> exact ⟨rfl, rfl, rfl⟩
    | stopNic =>
      refine .inl ?_
      simp only [State.outside, State.hostStep]
      obtain e | ⟨_, _, e⟩ := stopNic_cases s <;> rw [e] <;> exact ⟨rfl, rfl, rfl⟩
    | resetNic d =>
      simp only [State.outside, State.hostStep]
      obtain e | ⟨hw, hbusy, hd, e⟩ := resetNic_cases s d <;> rw [e]
      · exact .inl ⟨rfl, rfl, rfl⟩
      · refine .inr ⟨d.stopped s.cfg, hw, ?_, hd, rfl⟩
        cases hq : s.eng.seq with
        | idle => rfl
        | running l p =>
          rw [hq] at hbusy
          cases hbusy
    | _ => exact .inl ⟨rfl, rfl, rfl⟩
  | _ => exact .inl ⟨rfl, rfl, rfl⟩

theorem startCmd_filterOk {s : State} (h : s.FilterBounds) (w : Word) : (s.startCmd w).FilterOk := by
  refine State.FilterBounds.goto ?_ ⟨nofun, trivial⟩
  exact h.of_same rfl rfl rfl rfl

theorem outside_filterOk {s : State} (hok : s.FilterOk) (i : Input) : (s.outside i).FilterOk := by
  have hcfg := outside_cfg s i
  obtain ⟨h, hpos⟩ := filterOk_iff.mp hok
  obtain ⟨_, _, hmcast⟩ | ⟨d, _, hidle, hd, e⟩ := outside_nic s i
  · by_cases hi : i = .reset
    · subst hi
      exact filterOk_iff.mpr ⟨⟨.inl rfl, Nat.zero_le _, h.nic⟩, nofun⟩
    obtain heng | ⟨w, _, e⟩ | e := outside_eng s hi
    · exact hok.of_same (by rw [heng]) (by rw [heng]) (by rw [heng]) (by rw [heng]) hmcast hcfg
    · rw [e]
      exact startCmd_filterOk h w
    · rw [e]
      exact hok.of_same rfl rfl rfl rfl rfl rfl
  · rw [e]
    exact filterOk_iff.mpr ⟨⟨h.mask, h.count, hd⟩, fun l p hq => by simp [hidle] at hq⟩

/-- Settles O13: the engine's steps and the inputs keep the bounds and the conditions on the position. -/
theorem filterStateKept : Obligations.FilterStateKept := by
  intro s t h hstep
  exact step_keeps (P := State.FilterOk) (fun w s _ h => startCmd_filterOk (filterOk_iff.mp h).1 w)
    (fun s h => h.of_same rfl rfl rfl rfl rfl rfl) (fun l p s hq h => engineStep_filterOk h hq)
    (fun i s h => outside_filterOk h i) (fun is s h => h.of_same rfl rfl rfl rfl rfl rfl) s t h hstep

end Sys2Proof.Machine
end

/-! ## The ring-index invariants (10_state.md R53; 40_ring.md R139)

The invariant speaks of the parameters and of nine fields of the engine record. A step that leaves these keeps it as far as the next
position asks for nothing new. The others are INIT's steps, the descriptor write, which appends a slot to the run of bound slots, the
clearing step of TX.RECLAIM, which takes the first one off, and the tail write of RX.POLL. -/

section

namespace Sys2Proof.Machine

/-! ### Circular distances -/

section
variable {i c k n : Nat}

theorem add_mod_ring (hc : c < n) (hk : k ≤ n) : (c + k) % n = if c + k < n then c + k else c + k - n := by
  split
  next h => exact Nat.mod_eq_of_lt h
  next h => rw [Nat.mod_eq_sub_mod (by omega), Nat.mod_eq_of_lt (by omega)]

theorem sub_mod_ring (hi : i < n) (hc : c < n) : (i + n - c) % n = if c ≤ i then i - c else i + n - c := by
  split
  next h =>
    rw [Nat.mod_eq_sub_mod (by omega), Nat.mod_eq_of_lt (by omega)]
    omega
  next h => exact Nat.mod_eq_of_lt (by omega)

/-- Slot `i` is one of the `k` slots from `c` on. -/
def InRun (n c k i : Nat) : Prop := i < n ∧ (i + n - c) % n < k

/-- One slot more: the run has the slot after its last one. -/
theorem inRun_succ (hc : c < n) (hk : k < n) : InRun n c (k + 1) i ↔ i = (c + k) % n ∨ InRun n c k i := by
  unfold InRun
  by_cases hi : i < n
  · rw [sub_mod_ring hi hc, add_mod_ring hc hk.le]
    split_ifs <;> omega
  · have hne : i ≠ (c + k) % n := fun h => hi (h ▸ Nat.mod_lt _ (by omega))
    simp [hi, hne]

/-- One slot fewer: the run from the next slot on has all slots but the first. -/
theorem inRun_tail (hc : c < n) (hk : k < n) : InRun n ((c + 1) % n) k i ↔ i ≠ c ∧ InRun n c (k + 1) i := by
  unfold InRun
  by_cases hi : i < n
  · rw [sub_mod_ring hi (Nat.mod_lt _ (by omega)), sub_mod_ring hi hc, add_mod_ring hc (by omega)]
    split_ifs <;> omega
  · simp [hi]

theorem first_inRun (hc : c < n) : InRun n c k c ↔ 0 < k := by
  unfold InRun
  rw [sub_mod_ring hc hc, if_pos le_rfl]
  omega

/-- A ring has a slot that is not in the run only where the run is not the whole ring. -/
theorem lt_of_not_inRun (hc : c < n) (hk : k ≤ n) (h : ¬ InRun n c k ((c + k) % n)) : k < n := by
  refine lt_of_le_of_ne hk ?_
  rintro rfl
  rw [Nat.add_mod_right, Nat.mod_eq_of_lt hc, first_inRun hc] at h
  omega

end

/-! ### Slots after a write to a table -/

section
variable {s t : State} {i j : Nat}

theorem slotFree_congr (h : t.eng.txTab = s.eng.txTab) (i : Nat) : t.slotFree i = s.slotFree i := by
  rw [State.slotFree, State.txBinding, h]
  rfl

theorem slotFree_of_tableSet_same (hs : tableWf noTx s.eng.txTab = true) {b : TxBinding}
    (h : t.eng.txTab = tableSet noTx s.eng.txTab i b) : t.slotFree i = decide (b.bind = 0) := by
  rw [State.slotFree, State.txBinding, h, tableGet_set_same noTx hs]

theorem slotFree_of_tableSet_ne {b : TxBinding} (h : t.eng.txTab = tableSet noTx s.eng.txTab i b) (hj : j ≠ i) :
    t.slotFree j = s.slotFree j := by
  rw [State.slotFree, State.txBinding, h, tableGet_set_ne noTx hj]
  rfl

theorem slotsFree_iff {f : Nat} : s.slotsFree f = true ↔ ∀ j, j < f → s.slotFree (slotFrom s.eng.txW s.eng.n j) = true := by
  simp [State.slotsFree]

/-- A receive slot gets a buffer, and with it the slots before it have theirs. -/
theorem rxBound_succ_of_tableSet (hs : tableWf noRx s.eng.rxTab = true) {b : RxBinding}
    (h : t.eng.rxTab = tableSet noRx s.eng.rxTab i b) (hb : b.da ≠ 0) (hbound : s.RxBound i) : t.RxBound (i + 1) := by
  intro j hj
  simp only [State.rxBinding, h]
  by_cases hij : j = i
  · subst hij
    rwa [tableGet_set_same noRx hs]
  · rw [tableGet_set_ne noRx hij]
    exact hbound j (by omega)

end

/-! ### Steps that leave the rings -/

/-- `t` has the parameters and the ring state of `s`. -/
structure State.SameRing (s t : State) : Prop where
  cfg : t.cfg = s.cfg
  hwInit : t.eng.hwInit = s.eng.hwInit
  n : t.eng.n = s.eng.n
  b : t.eng.b = s.eng.b
  txW : t.eng.txW = s.eng.txW
  txC : t.eng.txC = s.eng.txC
  txTab : t.eng.txTab = s.eng.txTab
  rxC : t.eng.rxC = s.eng.rxC
  rxTab : t.eng.rxTab = s.eng.rxTab

/-- The rings are up or down as `hwInit` says: `RingOk` but for the running command. -/
structure State.RingBase (s : State) : Prop where
  up : s.eng.hwInit = true → s.RingUp
  down : s.eng.hwInit = false → s.RingDown

section
variable {l : Latch} {s t u : State}

theorem State.SameRing.trans (h : s.SameRing t) (k : t.SameRing u) : s.SameRing u :=
  ⟨k.cfg.trans h.cfg, k.hwInit.trans h.hwInit, k.n.trans h.n, k.b.trans h.b, k.txW.trans h.txW, k.txC.trans h.txC,
    k.txTab.trans h.txTab, k.rxC.trans h.rxC, k.rxTab.trans h.rxTab⟩

theorem State.SameRing.slotFree (h : s.SameRing t) : t.slotFree = s.slotFree := funext (slotFree_congr h.txTab)

theorem State.SameRing.slotsFree (h : s.SameRing t) : t.slotsFree = s.slotsFree := by
  funext f
  simp only [State.slotsFree, h.slotFree, h.txW, h.n]

theorem State.SameRing.rxBound (h : s.SameRing t) : t.RxBound = s.RxBound := by
  funext m
  simp only [State.RxBound, State.rxBinding, h.rxTab]

theorem State.RingUp.of_same (h : s.RingUp) (k : s.SameRing t) : t.RingUp where
  size := by rw [k.n, k.cfg]; exact h.size
  txW := by rw [k.txW, k.n]; exact h.txW
  txC := by rw [k.txC, k.n]; exact h.txC
  rxC := by rw [k.rxC, k.n]; exact h.rxC
  run := by
    obtain ⟨j, hj⟩ := h.run
    refine ⟨j, ?_⟩
    unfold State.TxRun
    rw [k.n, k.txW, k.txC, k.slotFree]
    exact hj
  rx := by rw [k.n, k.rxBound]; exact h.rx

theorem State.RingDown.of_same (h : s.RingDown) (k : s.SameRing t) : t.RingDown where
  n := k.n.trans h.n
  b := k.b.trans h.b
  txW := k.txW.trans h.txW
  txC := k.txC.trans h.txC
  rxC := k.rxC.trans h.rxC
  free := by rw [k.slotFree]; exact h.free

theorem State.RingBase.of_same (h : s.RingBase) (k : s.SameRing t) : t.RingBase :=
  ⟨fun hw => (h.up (k.hwInit ▸ hw)).of_same k, fun hw => (h.down (k.hwInit ▸ hw)).of_same k⟩

theorem ringAt_congr (k : s.SameRing t) (p : Point) : t.RingAt l p ↔ s.RingAt l p := by
  unfold State.RingAt
  rw [k.hwInit, k.cfg, k.n, k.txW, k.txC, k.slotFree, k.slotsFree, k.rxBound]

end

end Sys2Proof.Machine
end

/-! ### Steps that move a cursor (R53 b, c) -/

section

namespace Sys2Proof.Machine

/-- `t` has the rings of `s` after a descriptor write: `b` is bound at the write cursor, which moved by one slot (41_transmit.md R148). -/
structure State.SlotBound (s : State) (b : TxBinding) (t : State) : Prop where
  cfg : t.cfg = s.cfg
  eng : t.eng = { s.eng with
    txTab := tableSet noTx s.eng.txTab s.eng.txW.toNat b
    txW := adv s.eng.txW s.eng.n }

/-- `t` has the rings of `s` after the clearing step of a reclaim: the slot at the cleanup cursor, which moved by one slot, is free
(41_transmit.md R160). -/
structure State.SlotFreed (s t : State) : Prop where
  cfg : t.cfg = s.cfg
  eng : t.eng = { s.eng with
    txTab := tableSet noTx s.eng.txTab s.eng.txC.toNat noTx
    txC := adv s.eng.txC s.eng.n }

theorem pushDesc_slotBound (s : State) (va : Addr) (len : Half) (da : Addr) (cmd : Byte) (tag : Half) :
    s.SlotBound { bind := da, va := va, len := len } (pushDesc s va len da cmd tag) :=
  ⟨by simp [pushDesc], by simp [pushDesc]⟩

theorem clearSlot_slotFreed (s : State) (k : Nat) (d : TxRec) : s.SlotFreed (s.clearSlot k d) :=
  ⟨by simp [State.clearSlot], by simp [State.clearSlot]⟩

/-- The bound slots are the run from the cleanup cursor on (40_ring.md R139). -/
theorem txRun_iff {s : State} {k : Nat} : s.TxRun k ↔
    k ≤ s.eng.n.toNat ∧ s.eng.txW.toNat = (s.eng.txC.toNat + k) % s.eng.n.toNat ∧
      ∀ i, s.slotFree i = false ↔ InRun s.eng.n.toNat s.eng.txC.toNat k i := Iff.rfl

section
variable {s t : State}

theorem State.RingUp.n_pos (h : s.RingUp) : 0 < s.eng.n.toNat := lt_of_lt_of_le two_pos h.size.1

/-- A step of a transmit command keeps the receive side and leaves the transmit side to show. -/
theorem State.RingUp.of_transmit (h : s.RingUp) (hcfg : t.cfg = s.cfg) (hn : t.eng.n = s.eng.n) (hrxC : t.eng.rxC = s.eng.rxC)
    (hrxTab : t.eng.rxTab = s.eng.rxTab) (htxW : t.eng.txW.toNat < t.eng.n.toNat) (htxC : t.eng.txC.toNat < t.eng.n.toNat)
    (hrun : ∃ k, t.TxRun k) : t.RingUp where
  size := by rw [hn, hcfg]; exact h.size
  txW := htxW
  txC := htxC
  rxC := by rw [hn, hrxC]; exact h.rxC
  run := hrun
  rx := by
    rw [hn]
    simp only [State.RxBound, State.rxBinding, hrxTab]
    exact h.rx

theorem State.RingUp.adv_txW (h : s.RingUp) : (adv s.eng.txW s.eng.n).toNat = (s.eng.txW.toNat + 1) % s.eng.n.toNat :=
  adv_toNat h.txW

/-- A descriptor write appends the free slot at the write cursor to the run. -/
theorem State.RingUp.slotBound {b : TxBinding} (hs : tableWf noTx s.eng.txTab = true) (h : s.RingUp)
    (hfree : s.slotFree s.eng.txW.toNat = true) (hb : b.bind ≠ 0) (k : s.SlotBound b t) : t.RingUp := by
  obtain ⟨hcfg, heng⟩ := k
  have htab : t.eng.txTab = tableSet noTx s.eng.txTab s.eng.txW.toNat b := by rw [heng]
  obtain ⟨k, hrun⟩ := h.run
  obtain ⟨hk, hw, hbound⟩ := txRun_iff.mp hrun
  have hlt : k < s.eng.n.toNat := by
    refine lt_of_not_inRun h.txC hk fun hin => ?_
    rw [← hw, ← hbound, hfree] at hin
    cases hin
  refine h.of_transmit hcfg (by rw [heng]) (by rw [heng]) (by rw [heng]) ?_ (by rw [heng]; exact h.txC)
    ⟨k + 1, txRun_iff.mpr ?_⟩
  · rw [heng]
    exact h.adv_txW ▸ Nat.mod_lt _ h.n_pos
  · have hfree' : ∀ i, t.slotFree i = false ↔ i = s.eng.txW.toNat ∨ s.slotFree i = false := by
      intro i
      by_cases hi : i = s.eng.txW.toNat
      · rw [hi, slotFree_of_tableSet_same hs htab]
        exact iff_of_true (decide_eq_false hb) (.inl rfl)
      · rw [slotFree_of_tableSet_ne htab hi]
        simp [hi]
    rw [heng]
    refine ⟨hlt, ?_, fun i => ?_⟩
    · rw [h.adv_txW, hw, Nat.mod_add_mod, Nat.add_assoc]
    · rw [hfree', inRun_succ h.txC hlt, ← hw, hbound]

/-- After a descriptor write the slots that were free from the second one on are free from the first one on. -/
theorem State.RingUp.slotsFree_of_slotBound {b : TxBinding} (h : s.RingUp) {f : Nat} (hf : f + 1 ≤ s.eng.n.toNat)
    (hfree : s.slotsFree (f + 1) = true) (k : s.SlotBound b t) : t.slotsFree f = true := by
  obtain ⟨_, heng⟩ := k
  have htab : t.eng.txTab = tableSet noTx s.eng.txTab s.eng.txW.toNat b := by rw [heng]
  rw [slotsFree_iff] at hfree ⊢
  intro j hj
  have hslot : slotFrom t.eng.txW t.eng.n j = slotFrom s.eng.txW s.eng.n (j + 1) := by
    rw [heng, slotFrom, h.adv_txW, Nat.mod_add_mod, slotFrom, Nat.add_assoc, Nat.add_comm 1 j]
  have hne : slotFrom s.eng.txW s.eng.n (j + 1) ≠ s.eng.txW.toNat := by
    rw [slotFrom, add_mod_ring h.txW (by omega)]
    split_ifs <;> omega
  rw [hslot, slotFree_of_tableSet_ne htab hne]
  exact hfree (j + 1) (by omega)

/-- The clearing step of TX.RECLAIM takes the first slot off the run. -/
theorem State.RingUp.slotFreed (hs : tableWf noTx s.eng.txTab = true) (h : s.RingUp)
    (hb : s.slotFree s.eng.txC.toNat = false) (k : s.SlotFreed t) : t.RingUp := by
  obtain ⟨hcfg, heng⟩ := k
  have htab : t.eng.txTab = tableSet noTx s.eng.txTab s.eng.txC.toNat noTx := by rw [heng]
  have hC : (adv s.eng.txC s.eng.n).toNat = (s.eng.txC.toNat + 1) % s.eng.n.toNat := adv_toNat h.txC
  obtain ⟨k, hrun⟩ := h.run
  obtain ⟨hk, hw, hbound⟩ := txRun_iff.mp hrun
  have hpos : 0 < k := (first_inRun h.txC).mp ((hbound _).mp hb)
  obtain ⟨k, rfl⟩ : ∃ m, k = m + 1 := Nat.exists_eq_succ_of_ne_zero hpos.ne'
  refine h.of_transmit hcfg (by rw [heng]) (by rw [heng]) (by rw [heng]) (by rw [heng]; exact h.txW) ?_ ⟨k, txRun_iff.mpr ?_⟩
  · rw [heng]
    exact hC ▸ Nat.mod_lt _ h.n_pos
  · have hfree' : ∀ i, t.slotFree i = false ↔ i ≠ s.eng.txC.toNat ∧ s.slotFree i = false := by
      intro i
      by_cases hi : i = s.eng.txC.toNat
      · rw [hi, slotFree_of_tableSet_same hs htab]
        exact iff_of_false (by decide) fun hne => hne.1 rfl
      · rw [slotFree_of_tableSet_ne htab hi]
        simp [hi]
    rw [heng]
    refine ⟨Nat.le_of_lt hk, ?_, fun i => ?_⟩
    · rw [hC, hw, Nat.mod_add_mod, Nat.add_assoc, Nat.add_comm 1 k]
    · rw [hfree', hC, inRun_tail h.txC hk, hbound]

/-- A step of RX.POLL moves at most the receive cursor, to the next slot (42_receive.md R174). -/
theorem State.RingUp.receive (h : s.RingUp) (hcfg : t.cfg = s.cfg) (k : s.ReceiveFrame t) : t.RingUp := by
  have hn : t.eng.n = s.eng.n := congrArg (·.n) k.eng
  have htxW : t.eng.txW = s.eng.txW := congrArg (·.txW) k.eng
  have htxC : t.eng.txC = s.eng.txC := congrArg (·.txC) k.eng
  have hfree : t.slotFree = s.slotFree := funext (slotFree_congr (congrArg (·.txTab) k.eng))
  have hrxTab : t.eng.rxTab = s.eng.rxTab := congrArg (·.rxTab) k.eng
  refine ⟨by rw [hn, hcfg]; exact h.size, by rw [hn, htxW]; exact h.txW, by rw [hn, htxC]; exact h.txC, ?_, ?_, ?_⟩
  · rw [hn]
    obtain e | e := k.rxC <;> rw [e]
    · exact h.rxC
    · exact adv_toNat h.rxC ▸ Nat.mod_lt _ h.n_pos
  · obtain ⟨j, hj⟩ := h.run
    refine ⟨j, ?_⟩
    unfold State.TxRun
    rw [hn, htxW, htxC, hfree]
    exact hj
  · rw [hn]
    simp only [State.RxBound, State.rxBinding, hrxTab]
    exact h.rx

end

end Sys2Proof.Machine
end

/-! ### The steps of the transmit and receive commands -/

section

namespace Sys2Proof.Machine

section
variable {l : Latch} {s t : State}

theorem State.RingBase.lands (h : t.RingBase) (hp : ∀ l p, t.eng.seq = .running l p → t.RingAt l p) : t.RingOk :=
  ⟨h.up, h.down, hp⟩

theorem State.RingOk.base (h : s.RingOk) : s.RingBase := ⟨h.up, h.down⟩

/-- An operation that leaves the parameters and the engine record. -/
theorem State.SameRing.of_eng_same (hcfg : t.cfg = s.cfg) (heng : t.eng = s.eng) : s.SameRing t :=
  ⟨hcfg, by rw [heng], by rw [heng], by rw [heng], by rw [heng], by rw [heng], by rw [heng], by rw [heng], by rw [heng]⟩

theorem goto_sameRing (l : Latch) (s : State) (p : Point) : s.SameRing (s.goto l p) := ⟨rfl, rfl, rfl, rfl, rfl, rfl, rfl, rfl, rfl⟩

theorem finish_sameRing (s : State) (c : Status) : s.SameRing (s.finish c) := ⟨rfl, rfl, rfl, rfl, rfl, rfl, rfl, rfl, rfl⟩

theorem regRead_sameRing (s : State) (r : NicReg) : s.SameRing (s.regRead r) := .of_eng_same rfl rfl

theorem regWrite_sameRing (s : State) (r : NicReg) (v : Word) : s.SameRing (s.regWrite r v) := .of_eng_same rfl rfl

theorem memRead_sameRing (s : State) (a : Addr) (n : Nat) : s.SameRing (s.memRead a n) := .of_eng_same rfl rfl

theorem memWrite_sameRing (s : State) (a : Addr) (bs : List Byte) : s.SameRing (s.memWrite a bs) := .of_eng_same rfl rfl

theorem mapCall_sameRing (s : State) (va : Addr) (n : Nat) : s.SameRing (s.mapCall va n) := .of_eng_same rfl rfl

theorem mapTx_sameRing (s : State) (va : Addr) (n : Nat) : s.SameRing (s.mapTx va n) := .of_eng_same rfl rfl

theorem unmap_sameRing (s : State) (da : Addr) (n : Nat) : s.SameRing (s.unmap da n) := .of_eng_same rfl rfl

theorem delay_sameRing (s : State) (us : Nat) : s.SameRing (s.delay us) := .of_eng_same rfl rfl

theorem acquire_sameRing (s : State) : s.SameRing s.acquire := ⟨rfl, rfl, rfl, rfl, rfl, rfl, rfl, rfl, rfl⟩

theorem release_sameRing (s : State) : s.SameRing s.release := ⟨rfl, rfl, rfl, rfl, rfl, rfl, rfl, rfl, rfl⟩

theorem State.RingBase.goto (h : s.RingBase) {p : Point} (hp : s.RingAt l p) : (s.goto l p).RingOk := by
  refine (h.of_same (goto_sameRing l s p)).lands ?_
  rintro _ _ ⟨⟩
  exact (ringAt_congr (goto_sameRing l s p) p).mpr hp

theorem State.RingBase.finish (h : s.RingBase) (c : Status) : (s.finish c).RingOk :=
  (h.of_same (finish_sameRing s c)).lands nofun

/-- An operation that leaves the rings, then the next position. -/
theorem State.RingBase.goto_of_same (h : s.RingBase) (k : s.SameRing t) {p : Point} (hp : s.RingAt l p) : (t.goto l p).RingOk :=
  (h.of_same k).goto ((ringAt_congr k p).mpr hp)

theorem State.RingBase.finish_of_same (h : s.RingBase) (k : s.SameRing t) (c : Status) : (t.finish c).RingOk :=
  (h.of_same k).finish c

theorem State.RingBase.of_up (hw : s.eng.hwInit = true) (h : s.RingUp) : s.RingBase :=
  ⟨fun _ => h, fun hdown => absurd (hdown.symm.trans hw) Bool.false_ne_true⟩

theorem State.RingBase.of_down (hw : s.eng.hwInit = false) (h : s.RingDown) : s.RingBase :=
  ⟨fun hup => absurd (hw.symm.trans hup) Bool.false_ne_true, fun _ => h⟩

/-! #### TX.SEND and TX.SENDF (41_transmit.md R145 to R155) -/

/-- The address of a legal list entry is not 0 (41_transmit.md R153). -/
theorem fragOf_va_ne_zero {e : Desc} {f : Frag} (h : fragOf e = some f) : f.va ≠ 0 := by
  unfold fragOf at h
  dsimp only at h
  split at h
  · cases h
  next hlegal =>
    cases h
    exact (not_or.mp hlegal).1

theorem slotFree_txW_of_slotsFree (h : s.RingUp) {f : Nat} (hf : s.slotsFree (1 + f) = true) : s.slotFree s.eng.txW.toNat = true := by
  have h0 := slotsFree_iff.mp hf 0 (by omega)
  rwa [slotFrom, Nat.add_zero, Nat.mod_eq_of_lt h.txW] at h0

theorem acquireOrWait_ringOk (hok : s.RingOk) {p : Point} (hp : s.RingAt l p) : (acquireOrWait l p s).RingOk := by
  obtain ⟨_, e⟩ | ⟨_, e⟩ := acquireOrWait_cases l s p <;> rw [e]
  · exact hok
  · exact hok.base.goto_of_same (acquire_sameRing s) hp

theorem fragsRead_ringOk (h : s.RingBase) (hw : s.eng.hwInit = true) {es : List (Option Frag)} (hlen : es.length = l.imm)
    (hn : l.imm ≤ s.eng.n.toNat) (hva : ∀ f, some f ∈ es → f.va ≠ 0) : (fragsRead l es s).RingOk := by
  obtain ⟨_, e⟩ | ⟨f, todo, rfl, hfree, e⟩ | ⟨_, _, _, _, e⟩ := fragsRead_cases l s es <;> rw [e]
  · exact h.finish .refused
  · have hcount : ([] : List MappedFrag).length + 1 + todo.length = l.imm := by
      simpa [Nat.add_comm] using hlen
    exact h.goto ⟨hw, hcount ▸ hn, hcount ▸ hfree, hva f (by simp), fun g hg => hva g (by simp [hg]), nofun⟩
  · exact h.finish .busy

/-- A fragment mapped: the next one, or the lock, with as many slots to come. -/
theorem afterFragMap_ringAt (hw : s.eng.hwInit = true) {todo : List Frag} {done : List MappedFrag} {m : MappedFrag}
    (hn : done.length + 1 + todo.length ≤ s.eng.n.toNat) (hfree : s.slotsFree (done.length + 1 + todo.length) = true)
    (htodo : ∀ g ∈ todo, g.va ≠ 0) (hdone : ∀ g ∈ done ++ [m], g.da ≠ 0) : s.RingAt l (.tx (afterFragMap todo done m)) := by
  obtain ⟨f, rest, rfl, e⟩ | ⟨f, rest, rfl, hlist, e⟩ := afterFragMap_cases todo done m <;> rw [e]
  · have hcount : (done ++ [m]).length + 1 + rest.length = done.length + 1 + (f :: rest).length := by
      simp only [List.length_append, List.length_cons, List.length_nil]
      omega
    exact ⟨hw, hcount ▸ hn, hcount ▸ hfree, htodo f (by simp), fun g hg => htodo g (by simp [hg]), hdone⟩
  · have hcount : 1 + rest.length = done.length + 1 + ([] : List Frag).length := by
      have := congrArg List.length hlist
      simp only [List.length_append, List.length_cons, List.length_nil] at this ⊢
      omega
    rw [hlist] at hdone
    exact ⟨hw, hcount ▸ hn, hcount ▸ hfree, hdone f (by simp), fun g hg => hdone g (by simp [hg])⟩

theorem txStep_ringOk (hc : s.Canonical) (hok : s.RingOk) {p : TxPoint} (hp : s.RingAt l (.tx p)) : (txStep l p s).RingOk := by
  obtain ⟨hw, hp⟩ := hp
  have h := hok.base
  have hup := hok.up hw
  cases p with
  | sendMap =>
    obtain ⟨hfree, hva⟩ := hp
    refine h.goto_of_same (mapTx_sameRing s _ _) ?_
    exact ⟨hw, hfree, dev_ne_zero hva _⟩
  | sendAcquire da => exact acquireOrWait_ringOk hok ⟨hw, hp⟩
  | sendWrite da =>
    obtain ⟨hfree, hda⟩ := hp
    have hpush := pushDesc_slotBound s l.arg0 l.arg1Lo da (txCmd true l.f1) l.tag
    have hw' := (congrArg (·.hwInit) hpush.eng).trans hw
    refine (State.RingBase.of_up hw' (hup.slotBound hc.tx hfree hda hpush)).goto ?_
    exact ⟨hw', trivial⟩
  | fragRead acc =>
    obtain ⟨hacc, hn, hva⟩ := hp
    have hread := memRead_sameRing s (entryAddr l.arg0 16 acc.length) 16
    have hva' : ∀ f, some f ∈ acc ++ [fragOf (readDesc s.mem (entryAddr l.arg0 16 acc.length))] → f.va ≠ 0 := by
      intro f hf
      obtain hf | hf := List.mem_append.mp hf
      · exact hva f hf
      · exact fragOf_va_ne_zero (List.mem_singleton.mp hf).symm
    simp only [txStep]
    obtain ⟨hnext, e⟩ | ⟨hlast, e⟩ := fragRead_cases l s acc _ _ rfl rfl <;> rw [e]
    · refine h.goto_of_same hread ?_
      exact ⟨hw, by simpa using hnext, hn, hva'⟩
    · refine fragsRead_ringOk (h.of_same hread) hw ?_ hn hva'
      rw [List.length_append, List.length_singleton]
      omega
  | fragMap f todo done =>
    obtain ⟨hn, hfree, hva, htodo, hdone⟩ := hp
    refine h.goto_of_same (mapTx_sameRing s _ _) ?_
    refine afterFragMap_ringAt hw hn hfree htodo fun g hg => ?_
    obtain hg | hg := List.mem_append.mp hg
    · exact hdone g hg
    · rw [List.mem_singleton.mp hg]
      exact dev_ne_zero hva _
  | fragAcquire f rest => exact acquireOrWait_ringOk hok ⟨hw, hp⟩
  | fragWrite f rest =>
    obtain ⟨hn, hfree, hda, hrest⟩ := hp
    have hpush := pushDesc_slotBound s f.va f.len f.da (txCmd rest.isEmpty l.f1) l.tag
    have hw' := (congrArg (·.hwInit) hpush.eng).trans hw
    have hbase := State.RingBase.of_up hw' (hup.slotBound hc.tx (slotFree_txW_of_slotsFree hup hfree) hda hpush)
    cases rest with
    | nil =>
      refine hbase.goto ?_
      exact ⟨hw', trivial⟩
    | cons g rest =>
      have hn' := congrArg (·.n.toNat) hpush.eng
      have hcount : 1 + (g :: rest).length = (1 + rest.length) + 1 := by simp [Nat.add_comm, Nat.add_left_comm]
      rw [hcount] at hn hfree
      refine hbase.goto ?_
      exact ⟨hw', hn'.symm ▸ Nat.le_of_succ_le hn, hup.slotsFree_of_slotBound hn hfree hpush,
        hrest g (by simp), fun m hm => hrest m (by simp [hm])⟩
  | tail slot =>
    refine h.goto_of_same (regWrite_sameRing s _ _) ?_
    exact ⟨hw, trivial⟩
  | unlock slot =>
    have hrel := release_sameRing s
    simp only [txStep]
    obtain ⟨_, e⟩ | ⟨_, _, e⟩ | ⟨_, _, e⟩ := txUnlock_cases l s slot <;> rw [e]
    · exact h.finish_of_same hrel .success
    · refine h.goto_of_same hrel ?_
      exact ⟨hw, trivial⟩
    · exact h.finish_of_same hrel .deviceFailure
  | waitRead slot k =>
    have hread := memRead_sameRing s (txSlotAddr s.cfg slot.toNat) 16
    simp only [txStep]
    obtain ⟨_, e⟩ | ⟨_, _, e⟩ | ⟨_, _, e⟩ := waitRead_cases l s slot k _ rfl <;> rw [e]
    · exact h.finish_of_same hread .success
    · refine h.goto_of_same hread ?_
      exact ⟨hw, trivial⟩
    · exact h.finish_of_same hread .deviceFailure
  | waitDelay slot k =>
    refine h.goto_of_same (delay_sameRing s _) ?_
    exact ⟨hw, trivial⟩

/-! #### TX.RECLAIM (41_transmit.md R157 to R160) -/

theorem reclaimNext_ringOk (h : s.RingBase) (hw : s.eng.hwInit = true) (w : Word) (k : Nat) : (reclaimNext l w k s).RingOk := by
  obtain ⟨_, e⟩ | ⟨_, _, hbound, e⟩ := reclaimNext_cases l s w k <;> rw [e]
  · exact h.finish .success
  · exact h.goto ⟨hw, hbound⟩

theorem reclaimStep_ringOk (hc : s.Canonical) (hok : s.RingOk) {p : ReclaimPoint} (hp : s.RingAt l (.reclaim p)) :
    (reclaimStep l p s).RingOk := by
  obtain ⟨hw, hp⟩ := hp
  have h := hok.base
  cases p with
  | head =>
    have hread := regRead_sameRing s .tdh
    have hfault : ∀ c, ((s.regRead .tdh).raiseFault c).RingOk := fun c =>
      h.finish_of_same (t := (s.regRead .tdh).setEng { s.eng with fault := true, faultCause := c })
        ⟨rfl, rfl, rfl, rfl, rfl, rfl, rfl, rfl, rfl⟩ .faulted
    simp only [reclaimStep]
    obtain ⟨_, e⟩ | ⟨_, _, e⟩ | ⟨_, _, e⟩ := reclaimHead_cases l s <;> rw [e]
    · exact hfault .headOutOfRange
    · exact reclaimNext_ringOk (h.of_same hread) hw _ 0
    · exact hfault .headOutsideWindow
  | read w k =>
    have hread := memRead_sameRing s (txSlotAddr s.cfg s.eng.txC.toNat) 16
    simp only [reclaimStep, reclaimRead]
    split
    · refine h.goto_of_same hread ?_
      exact ⟨hw, hp⟩
    · exact h.finish_of_same hread .success
  | unmap w k d =>
    refine h.goto_of_same (unmap_sameRing s _ _) ?_
    exact ⟨hw, hp⟩
  | output w k d =>
    refine h.goto_of_same (memWrite_sameRing s _ _) ?_
    exact ⟨hw, hp⟩
  | clear w k d =>
    have hfreed := clearSlot_slotFreed s k d
    have hw' := (congrArg (·.hwInit) hfreed.eng).trans hw
    exact reclaimNext_ringOk (.of_up hw' ((hok.up hw).slotFreed hc.tx hp hfreed)) hw' w (k + 1)

/-! #### RX.POLL (42_receive.md R167 to R174) -/

theorem rxStep_ringOk (hok : s.RingOk) (hw : s.eng.hwInit = true) (p : RxPoint) : (rxStep l p s).RingOk := by
  have hframe := rxStep_frame l s p
  have hw' := (congrArg (·.hwInit) hframe.eng).trans hw
  have hup := (hok.up hw).receive (rxStep_outer l s p).cfg hframe
  refine (State.RingBase.of_up hw' hup).lands fun l' p' hq => ?_
  have hfam := (rxStep_family l s p).family_eq hq
  cases p' with
  | rx q => exact hw'
  | _ => cases hfam

end

end Sys2Proof.Machine
end

/-! ### The steps of INIT (40_ring.md R133 to R137) -/

section

namespace Sys2Proof.Machine

section
variable {l : Latch} {s t : State}

/-- No buffer of a pool whose operands passed the checks starts at 0 (40_ring.md R133). -/
theorem poolBuf_ne_zero {c : Config} (h : l.InitOk c) {i : Nat} (hi : i < l.imm) : poolBuf l i ≠ 0 := by
  have hpool : 0 < l.arg0.toNat := Nat.pos_of_ne_zero fun h0 => h.pool (BitVec.eq_of_toNat_eq h0)
  have hbuf := h.buf
  have hrange := h.range
  have hnext : (i + 1) * l.arg1.toNat ≤ l.imm * l.arg1.toNat := Nat.mul_le_mul_right _ hi
  rw [Nat.add_one_mul] at hnext
  intro hzero
  have h0 : (poolBuf l i).toNat = 0 := by rw [hzero]; rfl
  rw [poolBuf, BitVec.toNat_add, BitVec.toNat_ofNat, Nat.mod_eq_of_lt (by omega), Nat.mod_eq_of_lt (by omega)] at h0
  omega

theorem addMapping_sameRing (s : State) (da va : Addr) (n : Nat) : s.SameRing (s.addMapping da va n) :=
  .of_eng_same rfl rfl

/-- A step of INIT touches of the rings only the binding tables, and binds no transmit slot. -/
theorem State.RingDown.of_tables (h : s.RingDown) (hn : t.eng.n = s.eng.n) (hb : t.eng.b = s.eng.b) (hW : t.eng.txW = s.eng.txW)
    (hC : t.eng.txC = s.eng.txC) (hrxC : t.eng.rxC = s.eng.rxC) (hfree : ∀ i, t.slotFree i = true) : t.RingDown :=
  ⟨hn.trans h.n, hb.trans h.b, hW.trans h.txW, hC.trans h.txC, hrxC.trans h.rxC, hfree⟩

theorem setTxBinding_noTx_ringDown (hs : tableWf noTx s.eng.txTab = true) (h : s.RingDown) (i : Nat) :
    (s.setTxBinding i noTx).RingDown := by
  refine h.of_tables rfl rfl rfl rfl rfl fun j => ?_
  by_cases hj : j = i
  · rw [hj, slotFree_of_tableSet_same hs (t := s.setTxBinding i noTx) rfl]
    decide
  · rw [slotFree_of_tableSet_ne (t := s.setTxBinding i noTx) rfl hj]
    exact h.free j

/-- INIT clears the binding of a transmit slot. -/
theorem clearTxBinding_ringBase (hs : tableWf noTx s.eng.txTab = true) (hw : s.eng.hwInit = false) (h : s.RingDown) (k : s.SameRing t)
    (i : Nat) : (t.setTxBinding i noTx).RingBase :=
  .of_down (k.hwInit.trans hw) (setTxBinding_noTx_ringDown (k.txTab ▸ hs) (h.of_same k) i)

/-- INIT writes the binding of a receive slot. -/
theorem setRxBinding_ringBase (hw : s.eng.hwInit = false) (h : s.RingDown) (k : s.SameRing t) (i : Nat) (b : RxBinding) :
    (t.setRxBinding i b).RingBase := by
  have hdown := h.of_same k
  exact .of_down (k.hwInit.trans hw) (hdown.of_tables rfl rfl rfl rfl rfl fun j => (slotFree_congr rfl j).trans (hdown.free j))

/-- The last step of INIT: the rings have a size, and every receive slot a buffer (40_ring.md R133, R139). -/
theorem initDone_ringOk (hdown : s.RingDown) (hl : l.InitOk s.cfg) (hbound : s.RxBound l.imm) : (initDone l s).RingOk := by
  have hn : 0 < l.imm := by have := hl.size.1; omega
  have hup : (initDone l s).RingUp :=
    { size := hl.size
      txW := hn
      txC := hn
      rxC := hn
      run := ⟨0, txRun_iff.mpr ⟨Nat.zero_le _, (Nat.zero_mod _).symm, fun i => by
        rw [slotFree_congr (s := s) (t := initDone l s) rfl, hdown.free]
        simp [InRun]⟩⟩
      rx := hbound }
  exact (State.RingBase.of_up rfl hup).lands nofun

/-- A transmit slot cleared: the next one, or the first buffer of the pool. -/
theorem afterTxSlot_ringOk (h : t.RingBase) (hw : t.eng.hwInit = false) (hl : l.InitOk s.cfg) (hcfg : t.cfg = s.cfg) (i : Nat) :
    (t.goto l (if i + 1 < l.imm then .init (.txSlot (i + 1)) else .init (.mapBuf 0))).RingOk := by
  rw [← hcfg] at hl
  split
  next hi => exact h.goto ⟨hw, hl, hi⟩
  next => exact h.goto ⟨hw, hl, lt_of_lt_of_le two_pos hl.size.1, nofun⟩

theorem programList_length (c : Config) (n : Nat) : (programList c n).length = 11 := rfl

theorem initStep_ringOk (hc : s.Canonical) (hok : s.RingOk) {p : InitPoint} (hp : s.RingAt l (.init p)) : (initStep l p s).RingOk := by
  obtain ⟨hw, hl, hp⟩ := hp
  have h := hok.base
  have hdown := hok.down hw
  cases p with
  | txSlot i =>
    have hmem := memWrite_sameRing s (txSlotAddr s.cfg i) (descBytes 0)
    have hbase := clearTxBinding_ringBase hc.tx hw hdown hmem i
    exact afterTxSlot_ringOk hbase (hmem.hwInit.trans hw) hl hmem.cfg i
  | mapBuf i =>
    obtain ⟨hi, hbound⟩ := hp
    have hmap := mapCall_sameRing s (poolBuf l i) l.arg1.toNat
    simp only [initStep]
    obtain ⟨_, _, e⟩ | ⟨_, _, e⟩ | ⟨d, _, e⟩ := initMapBuf_cases l s i <;> rw [e]
    · exact h.finish_of_same hmap .initFailure
    · refine h.goto_of_same hmap ?_
      exact ⟨hw, hl, trivial⟩
    · have hda : dev (poolBuf l i) (.ok d) ≠ 0 := dev_ne_zero (poolBuf_ne_zero hl hi) _
      have hadd := hmap.trans (addMapping_sameRing _ (dev (poolBuf l i) (.ok d)) (poolBuf l i) l.arg1.toNat)
      refine (setRxBinding_ringBase hw hdown hadd i _).goto ?_
      exact ⟨hw, hl, hi, rxBound_succ_of_tableSet (s := s) hc.rx rfl hda hbound⟩
  | rxSlot i =>
    obtain ⟨hi, hbound⟩ := hp
    have hmem : s.SameRing (s.writeRxd i (rxInit (s.rxBinding i).da)) := memWrite_sameRing s _ _
    simp only [initStep, initRxSlot]
    split
    next hnext =>
      refine h.goto_of_same hmem ?_
      exact ⟨hw, hl, hnext, hbound⟩
    next hlast =>
      refine h.goto_of_same hmem ?_
      exact ⟨hw, hl, by omega, fun j hj => hbound j (by omega)⟩
  | undo j =>
    have hbase := setRxBinding_ringBase hw hdown (unmap_sameRing s (s.rxBinding j).da l.arg1.toNat) j noRx
    simp only [initStep, initUndo]
    split
    · exact hbase.finish .initFailure
    · refine hbase.goto ?_
      exact ⟨hw, hl, trivial⟩
  | program k =>
    obtain ⟨hk, hbound⟩ := hp
    simp only [initStep]
    obtain ⟨hnone, _⟩ | ⟨r, v, s', _, hs', hnext⟩ := initProgram_cases l s k
    · rw [List.getElem?_eq_none_iff, programList_length] at hnone
      omega
    · have hsame : s.SameRing s' := by
        subst hs'
        split
        · exact (regWrite_sameRing s r v).trans ⟨rfl, rfl, rfl, rfl, rfl, rfl, rfl, rfl, rfl⟩
        · exact regWrite_sameRing s r v
      obtain ⟨hk', e⟩ | ⟨_, e⟩ := hnext <;> rw [e]
      · refine h.goto_of_same hsame ?_
        exact ⟨hw, hl, hk', hbound⟩
      · exact initDone_ringOk (hdown.of_same hsame) (hsame.cfg ▸ hl) (hsame.rxBound ▸ hbound)

/-! ### The steps that leave the rings, and the decode -/

/-- An engine record with the ring fields of `s`. -/
theorem State.SameRing.of_eng (hcfg : t.cfg = s.cfg) {e : Engine} (he : t.eng = e) (k : s.SameRing (s.setEng e)) : s.SameRing t :=
  k.trans ⟨hcfg, by rw [he]; rfl, by rw [he]; rfl, by rw [he]; rfl, by rw [he]; rfl, by rw [he]; rfl, by rw [he]; rfl, by rw [he]; rfl,
    by rw [he]; rfl⟩

theorem State.LinkFrame.sameRing (h : s.LinkFrame t) (hcfg : t.cfg = s.cfg) : s.SameRing t :=
  .of_eng hcfg h.eng ⟨rfl, rfl, rfl, rfl, rfl, rfl, rfl, rfl, rfl⟩

theorem State.ControlFrame.sameRing (h : s.ControlFrame t) (hcfg : t.cfg = s.cfg) : s.SameRing t :=
  .of_eng hcfg h.eng ⟨rfl, rfl, rfl, rfl, rfl, rfl, rfl, rfl, rfl⟩

/-- The positions of LINK.WAIT, FILTER.SET, INT.MASK and the queue procedures ask for nothing of the rings. -/
theorem ringAt_of_family {p : Point} (h : p.family = .link ∨ p.family = .mask ∨ p.family = .control) : s.RingAt l p := by
  cases p with
  | link _ | filter _ | mask _ | queue _ | decode => trivial
  | _ => simp [Point.family] at h

/-- A step of one of these families. -/
theorem State.RingBase.stays (h : s.RingBase) (k : s.SameRing t) {f : Family} (hf : f = .link ∨ f = .mask ∨ f = .control)
    (hq : t.eng.seq.StaysIn f) : t.RingOk :=
  (h.of_same k).lands fun _ _ hrun => ringAt_of_family ((hq.family_eq hrun).symm ▸ hf)

theorem initOk_of_not_refused (h : initRefused l s = false) : s.eng.hwInit = false ∧ l.InitOk s.cfg := by
  simp only [initRefused, Bool.or_eq_false_iff, decide_eq_false_iff_not, wraps_eq_false_iff] at h
  obtain ⟨⟨⟨⟨⟨⟨⟨hw, hmin⟩, hmax⟩, hbuf⟩, _⟩, hpool⟩, hrange⟩, _⟩ := h
  exact ⟨hw, ⟨by omega, by omega⟩, hpool, by omega, hrange⟩

theorem arg0_of_not_sendRefused (h : sendRefused l s = false) : l.arg0 ≠ 0 := by
  simp only [sendRefused, Bool.or_eq_false_iff, decide_eq_false_iff_not] at h
  exact h.1.1.1.2

theorem imm_of_not_sendfRefused (h : sendfRefused l s = false) : 0 < l.imm ∧ l.imm ≤ s.eng.n.toNat := by
  simp only [sendfRefused, Bool.or_eq_false_iff, decide_eq_false_iff_not] at h
  obtain ⟨⟨⟨⟨⟨hmin, hmax⟩, _⟩, _⟩, _⟩, _⟩ := h
  omega

theorem startInstr_ringOk (h : s.RingBase) {i : Instr} (hw : i.needsInit = true → s.eng.hwInit = true) : (startInstr l i s).RingOk := by
  cases i with
  | init n =>
    simp only [startInstr]
    obtain ⟨_, e⟩ | ⟨hok, e⟩ := initStart_cases l s <;> rw [e]
    · exact h.finish .refused
    · obtain ⟨hdown, hl⟩ := initOk_of_not_refused hok
      refine h.goto ?_
      exact ⟨hdown, hl, lt_of_lt_of_le two_pos hl.size.1⟩
  | txSend block vle =>
    simp only [startInstr]
    obtain ⟨_, e⟩ | ⟨hok, hfree, e⟩ | ⟨_, _, e⟩ := sendStart_cases l s <;> rw [e]
    · exact h.finish .refused
    · refine h.goto ?_
      exact ⟨hw rfl, hfree, arg0_of_not_sendRefused hok⟩
    · exact h.finish .busy
  | txSendf block vle frags =>
    simp only [startInstr]
    obtain ⟨_, e⟩ | ⟨hok, e⟩ := sendfStart_cases l s <;> rw [e]
    · exact h.finish .refused
    · obtain ⟨hpos, hn⟩ := imm_of_not_sendfRefused hok
      refine h.goto ?_
      exact ⟨hw rfl, hpos, hn, nofun⟩
  | txReclaim max =>
    simp only [startInstr, reclaimStart]
    split_ifs
    · exact h.finish .refused
    · exact h.finish_of_same (t := s.setRes2 0) ⟨rfl, rfl, rfl, rfl, rfl, rfl, rfl, rfl, rfl⟩ .success
    · refine h.goto ?_
      exact ⟨hw rfl, trivial⟩
  | rxPoll =>
    simp only [startInstr, pollStart]
    split
    · exact h.finish .refused
    · refine h.goto ?_
      exact hw rfl
  | linkWait cd =>
    have hlink : s.SameRing (s.setLink .negotiating) := ⟨rfl, rfl, rfl, rfl, rfl, rfl, rfl, rfl, rfl⟩
    simp only [startInstr, linkStart]
    split_ifs
    · exact h.goto_of_same hlink trivial
    · exact (h.of_same hlink).stays ((windowOver_frame l _).sameRing (windowOver_outer l _).cfg) (.inl rfl) (windowOver_family l _)
    · exact h.finish_of_same (t := s.setRes2 1) ⟨rfl, rfl, rfl, rfl, rfl, rfl, rfl, rfl, rfl⟩ .success
  | filterSet mcl mask =>
    simp only [startInstr, filterStart]
    split_ifs
    · exact h.finish .refused
    · exact h.goto (p := .filter (.acquire .ctrl false)) trivial
    · exact h.stays ((filterList_frame l s false).sameRing (filterList_outer l s false).cfg) (.inr (.inr rfl)) (filterList_family l s false)
  | intMask => exact h.goto (p := .mask .clear) trivial
  | rxEnable =>
    exact h.stays ((startQueue_frame l s .rx .command).sameRing (startQueue_outer l s .rx .command).cfg) (.inr (.inr rfl))
      (startQueue_family l s .rx .command)
  | rxDisable => exact h.goto (p := .queue (.disableRead .rx .command)) trivial
  | txqEnable =>
    exact h.stays ((startQueue_frame l s .tx .command).sameRing (startQueue_outer l s .tx .command).cfg) (.inr (.inr rfl))
      (startQueue_family l s .tx .command)
  | txqDisable => exact h.goto (p := .queue (.disableRead .tx .command)) trivial

theorem decodeStep_ringOk (h : s.RingBase) : (decodeStep l s).RingOk := by
  obtain ⟨_, e⟩ | ⟨_, _, e⟩ | ⟨_, i, _, ⟨_, _, e⟩ | ⟨hw, e⟩⟩ := decodeStep_cases l s <;> rw [e]
  · exact h.finish .faulted
  · exact h.finish .refused
  · exact h.finish .refused
  · exact startInstr_ringOk h hw

theorem engineStep_ringOk (hc : s.Canonical) (hok : s.RingOk) {p : Point} (hq : s.eng.seq = .running l p) :
    (engineStep l p s).RingOk := by
  have hp := hok.point l p hq
  have hfam : s.eng.seq.family = some p.family := by rw [hq]; rfl
  cases p with
  | decode => exact decodeStep_ringOk hok.base
  | init q => exact initStep_ringOk hc hok hp
  | tx q => exact txStep_ringOk hc hok hp
  | reclaim q => exact reclaimStep_ringOk hc hok hp
  | rx q => exact rxStep_ringOk hok hp q
  | link q =>
    exact hok.base.stays ((linkStep_frame l s q).sameRing (linkStep_outer l s q).cfg) (.inl rfl) (linkStep_family l s q)
  | filter q =>
    exact hok.base.stays ((filterStep_frame l s q).sameRing (filterStep_outer l s q).cfg) (.inr (.inr rfl))
      (filterStep_family l s hfam q)
  | mask q =>
    exact hok.base.stays ((maskStep_frame l s q).sameRing (maskStep_outer l s q).cfg) (.inr (.inl rfl)) (maskStep_family l s q)
  | queue q =>
    exact hok.base.stays ((queueStep_frame l s q).sameRing (queueStep_outer l s q).cfg) (.inr (.inr rfl)) (queueStep_family l s q)

end

/-! ### The inputs -/

theorem State.RingOk.of_same {s t : State} (h : s.RingOk) (k : s.SameRing t) (hseq : t.eng.seq = s.eng.seq) : t.RingOk :=
  (h.base.of_same k).lands fun l p hq => (ringAt_congr k p).mpr (h.point l p (hseq ▸ hq))

theorem startCmd_ringOk {s : State} (h : s.RingOk) (w : Word) : (s.startCmd w).RingOk :=
  (h.base.of_same (t := s.startCmd w) ⟨rfl, rfl, rfl, rfl, rfl, rfl, rfl, rfl, rfl⟩).lands fun l p hq => by
    cases hq
    trivial

/-- A reset of the block takes the rings down (70_reset_and_hazards.md R257). -/
theorem ringOk_of_reset {s : State} (h : s.eng = Engine.reset) : s.RingOk where
  up hw := by rw [h] at hw; cases hw
  down _ := by
    refine ⟨?_, ?_, ?_, ?_, ?_, fun i => ?_⟩
    · rw [h]; rfl
    · rw [h]; rfl
    · rw [h]; rfl
    · rw [h]; rfl
    · rw [h]; rfl
    · rw [State.slotFree, State.txBinding, h]
      rfl
  point l p hq := by rw [h] at hq; cases hq

theorem overrun_ringOk {s : State} (h : s.RingOk) : s.overrun.RingOk :=
  h.of_same ⟨rfl, rfl, rfl, rfl, rfl, rfl, rfl, rfl, rfl⟩ rfl

theorem outside_ringOk {s : State} (h : s.RingOk) (i : Input) : (s.outside i).RingOk := by
  by_cases hi : i = .reset
  · subst hi
    exact ringOk_of_reset rfl
  · have hcfg := outside_cfg s i
    obtain e | ⟨w, _, e⟩ | e := outside_eng s hi
    · exact h.of_same (.of_eng_same hcfg e) (by rw [e])
    · rw [e]
      exact startCmd_ringOk h w
    · rw [e]
      exact overrun_ringOk h

theorem setInputs_ringOk {s : State} (h : s.RingOk) (is : List Input) : (s.setInputs is).RingOk :=
  h.of_same (.of_eng_same rfl rfl) rfl

/-- Settles O11: every move keeps the canonical form, by which the tables read back, and with it the ring-index invariants. -/
theorem ringIndexesKept : Obligations.RingIndexesKept := by
  intro s t hc h hstep
  refine (step_keeps (P := fun u => u.Canonical ∧ u.RingOk) (fun w u _ hu => ?_) (fun u hu => ?_)
    (fun l p u hq hu => ⟨engineStep_canonical l hu.1 p, engineStep_ringOk hu.1 hu.2 hq⟩)
    (fun i u hu => ⟨outside_canonical hu.1 i, outside_ringOk hu.2 i⟩) (fun is u hu => ?_) s t ⟨hc, h⟩ hstep).2
  · exact ⟨(canonical_startCmd u w).mpr hu.1, startCmd_ringOk hu.2 w⟩
  · exact ⟨(canonical_overrun u).mpr hu.1, overrun_ringOk hu.2⟩
  · exact ⟨(canonical_setInputs u is).mpr hu.1, setInputs_ringOk hu.2 is⟩

end Sys2Proof.Machine
end

/-! ## The tail registers (10_state.md R53 d; 41_transmit.md R150; 42_receive.md R176)

Outside the positions between a descriptor write and its tail write both tails follow their cursors. Most steps leave the cursors and the
tails; the tail write of RX.POLL moves its cursor and its tail together, that of the transmit commands brings the tail to the cursor, and
the last step of INIT makes both rings up with the tails it programmed. -/

section

namespace Sys2Proof.Machine

/-- `t` has the ring size, the moving cursors and the tails of `s`. -/
structure State.SameTails (s t : State) : Prop where
  hwInit : t.eng.hwInit = s.eng.hwInit
  n : t.eng.n = s.eng.n
  rxC : t.eng.rxC = s.eng.rxC
  txW : t.eng.txW = s.eng.txW
  rdt : t.nic.rdt = s.nic.rdt
  tdt : t.nic.tdt = s.nic.tdt

/-- The receive tail is the slot before the receive cursor. -/
def State.RxTail (s : State) : Prop :=
  s.eng.hwInit = true → s.nic.rdt.toNat = (s.eng.rxC.toNat + s.eng.n.toNat - 1) % s.eng.n.toNat

/-- The transmit tail is the write cursor. -/
def State.TxTail (s : State) : Prop := s.eng.hwInit = true → s.nic.tdt.toNat = s.eng.txW.toNat

section
variable {l : Latch} {s t u : State}

theorem State.SameTails.trans (h : s.SameTails t) (k : t.SameTails u) : s.SameTails u :=
  ⟨k.hwInit.trans h.hwInit, k.n.trans h.n, k.rxC.trans h.rxC, k.txW.trans h.txW, k.rdt.trans h.rdt, k.tdt.trans h.tdt⟩

theorem State.RxTail.of_same (h : s.RxTail) (k : s.SameTails t) : t.RxTail := by
  unfold State.RxTail
  rw [k.hwInit, k.rdt, k.rxC, k.n]
  exact h

theorem State.TxTail.of_same (h : s.TxTail) (k : s.SameTails t) : t.TxTail := by
  unfold State.TxTail
  rw [k.hwInit, k.tdt, k.txW]
  exact h

/-- At a position that is not before a tail write the transmit tail is the write cursor. -/
theorem State.TailsOk.txTail (h : s.TailsOk) {p : Point} (hq : s.eng.seq = .running l p) (hp : p.beforeTail = false) : s.TxTail := by
  refine fun hw => h.tx hw fun l' p' hq' => ?_
  cases hq.symm.trans hq'
  exact hp

/-- A step into a family other than INIT's. -/
theorem State.TailsOk.stays {f : Family} (hrx : t.RxTail) (htx : t.TxTail) (hseq : t.eng.seq.StaysIn f) (hf : f ≠ .init) : t.TailsOk where
  rx := hrx
  tx hw _ := htx hw
  init _ _ hq := absurd (hseq.family_eq hq).symm hf

/-- A step of a family that leaves the cursors and the tails. -/
theorem State.TailsOk.of_same (h : s.TailsOk) {p : Point} (hq : s.eng.seq = .running l p) (hp : p.beforeTail = false)
    (k : s.SameTails t) {f : Family} (hseq : t.eng.seq.StaysIn f) (hf : f ≠ .init) : t.TailsOk :=
  .stays (State.RxTail.of_same h.rx k) ((h.txTail hq hp).of_same k) hseq hf

theorem State.LinkFrame.sameTails (h : s.LinkFrame t) : s.SameTails t :=
  ⟨by rw [h.eng], by rw [h.eng], by rw [h.eng], by rw [h.eng], by rw [h.nic], by rw [h.nic]⟩

theorem State.ControlFrame.sameTails (h : s.ControlFrame t) : s.SameTails t :=
  ⟨by rw [h.eng], by rw [h.eng], by rw [h.eng], by rw [h.eng], by rw [h.nic], by rw [h.nic]⟩

theorem State.TransmitFrame.sameTails (h : s.TransmitFrame t) (htxW : t.eng.txW = s.eng.txW) (htdt : t.nic.tdt = s.nic.tdt) :
    s.SameTails t :=
  ⟨by rw [h.eng], by rw [h.eng], by rw [h.eng], htxW, by rw [h.nic], htdt⟩

theorem State.TransmitFrame.rxTail (h : s.TransmitFrame t) (hrx : s.RxTail) : t.RxTail := by
  unfold State.RxTail
  rw [h.eng, h.nic]
  exact hrx

/-! ### INIT programs the tails (40_ring.md R137, R138) -/

/-- The rings are down, so the tails are bound by nothing but INIT's own position. -/
theorem State.TailsOk.of_down (hw : t.eng.hwInit = false)
    (hinit : ∀ l k, t.eng.seq = .running l (.init (.program k)) → 6 ≤ k → t.nic.tdt = 0) : t.TailsOk where
  rx hup := absurd (hw.symm.trans hup) Bool.false_ne_true
  tx hup := absurd (hw.symm.trans hup) Bool.false_ne_true
  init := hinit

theorem clearIntMask_regWrite_nic (s : State) (r : NicReg) (v : Word) (k : Nat) :
    (if k = 0 then clearIntMask (s.regWrite r v) else s.regWrite r v).nic = nicWrite s.nic r v := by
  split <;> rfl

/-- After register write `k` of INIT, from the fifth on, the transmit tail is 0. -/
theorem nicWrite_program_tdt {c : Config} {n k : Nat} {r : NicReg} {v : Word} {d : Nic} (hk : k < 11)
    (hr : (programList c n)[k]? = some (r, v)) (hd : 6 ≤ k → d.tdt = 0) (hk' : 5 ≤ k) : (nicWrite d r v).tdt = 0 := by
  interval_cases k <;> cases hr
  · rfl
  all_goals exact hd (by decide)

/-- The last register write of INIT gives away all receive slots but one. -/
theorem nicWrite_program_rdt {c : Config} {n : Nat} {r : NicReg} {v : Word} (d : Nic)
    (hr : (programList c n)[10]? = some (r, v)) : (nicWrite d r v).rdt = BitVec.ofNat 32 (n - 1) := by
  cases hr
  rfl

/-- The last step of INIT, with both tails programmed. -/
theorem initDone_tailsOk (hl : 2 ≤ l.imm) (hrdt : s.nic.rdt = BitVec.ofNat 32 (l.imm - 1)) (htdt : s.nic.tdt = 0) :
    (initDone l s).TailsOk where
  rx _ := by
    have hn : l.imm < 2 ^ 16 := (immField l.word).isLt
    have hrx : s.nic.rdt.toNat = (0 + l.imm - 1) % l.imm := by
      rw [hrdt, BitVec.toNat_ofNat, Nat.zero_add, Nat.mod_eq_of_lt (by omega), Nat.mod_eq_of_lt (by omega)]
    exact hrx
  tx _ _ := by
    have htx : s.nic.tdt.toNat = 0 := by rw [htdt]; rfl
    exact htx
  init := nofun

theorem initProgram_tailsOk (hok : s.TailsOk) {k : Nat} (hq : s.eng.seq = .running l (.init (.program k)))
    (hw : s.eng.hwInit = false) (hl : 2 ≤ l.imm) (hk : k < 11) : (initProgram l k s).TailsOk := by
  obtain ⟨hnone, _⟩ | ⟨r, v, s', hr, hs', hnext⟩ := initProgram_cases l s k
  · rw [List.getElem?_eq_none_iff, programList_length] at hnone
    omega
  · have hnic : s'.nic = nicWrite s.nic r v := hs' ▸ clearIntMask_regWrite_nic s r v k
    have htdt : 5 ≤ k → s'.nic.tdt = 0 := hnic ▸ nicWrite_program_tdt hk hr (hok.init l k hq)
    have hdown : s'.eng.hwInit = false := by
      rw [hs']
      split <;> exact hw
    obtain ⟨_, e⟩ | ⟨hlast, e⟩ := hnext <;> rw [e]
    · refine .of_down hdown ?_
      rintro _ _ ⟨⟩ hk'
      exact htdt (by omega)
    · obtain rfl : k = 10 := by omega
      exact initDone_tailsOk hl (hnic ▸ nicWrite_program_rdt _ hr) (htdt (by decide))

/-- The other steps of INIT stay before its register writes, or begin them. -/
theorem initStep_program {p : InitPoint} (hp : ∀ k, p ≠ .program k) {l' : Latch} {k : Nat}
    (hq : (initStep l p s).eng.seq = .running l' (.init (.program k))) : k = 0 := by
  cases p with
  | txSlot i =>
    simp only [initStep, initTxSlot] at hq
    split at hq <;> cases hq
  | mapBuf i =>
    simp only [initStep] at hq
    obtain ⟨_, _, e⟩ | ⟨_, _, e⟩ | ⟨d, _, e⟩ := initMapBuf_cases l s i <;> rw [e] at hq <;> cases hq
  | rxSlot i =>
    simp only [initStep, initRxSlot] at hq
    split at hq <;> cases hq
    rfl
  | undo j =>
    simp only [initStep, initUndo] at hq
    split at hq <;> cases hq
  | program k => exact absurd rfl (hp k)

theorem initStep_hwInit {p : InitPoint} (hp : ∀ k, p ≠ .program k) : (initStep l p s).eng.hwInit = s.eng.hwInit := by
  obtain h | ⟨k, _, rfl, _⟩ := initStep_frame l s p
  · exact congrArg (·.hwInit) h.eng
  · exact absurd rfl (hp k)

theorem initStep_tailsOk (hring : s.RingOk) (hok : s.TailsOk) {p : InitPoint} (hq : s.eng.seq = .running l (.init p)) :
    (initStep l p s).TailsOk := by
  obtain ⟨hw, hl, hp⟩ := hring.point l _ hq
  by_cases hprog : ∃ k, p = .program k
  · obtain ⟨k, rfl⟩ := hprog
    exact initProgram_tailsOk hok hq hw hl.size.1 hp.1
  · have hprog : ∀ k, p ≠ .program k := fun k hk => hprog ⟨k, hk⟩
    refine .of_down ((initStep_hwInit hprog).trans hw) fun l' k hq' hk => ?_
    rw [initStep_program hprog hq'] at hk
    omega

/-! ### The steps of TX.SEND, TX.SENDF and TX.RECLAIM -/

theorem fragsRead_txW (es : List (Option Frag)) : (fragsRead l es s).eng.txW = s.eng.txW := by
  obtain ⟨_, e⟩ | ⟨_, _, _, _, e⟩ | ⟨_, _, _, _, e⟩ := fragsRead_cases l s es <;> rw [e] <;> rfl

theorem acquireOrWait_txW (p : Point) : (acquireOrWait l p s).eng.txW = s.eng.txW := by
  obtain ⟨_, e⟩ | ⟨_, e⟩ := acquireOrWait_cases l s p <;> rw [e]
  rfl

theorem txStep_txW {q : TxPoint} (hq : q.quiet = true) : (txStep l q s).eng.txW = s.eng.txW := by
  cases q with
  | sendWrite | fragWrite | tail => cases hq
  | sendAcquire | fragAcquire => exact acquireOrWait_txW _
  | fragRead acc =>
    simp only [txStep]
    obtain ⟨_, e⟩ | ⟨_, e⟩ := fragRead_cases l s acc _ _ rfl rfl <;> rw [e]
    · rfl
    · exact fragsRead_txW (s := s.memRead _ _) _
  | unlock slot =>
    simp only [txStep]
    obtain ⟨_, e⟩ | ⟨_, _, e⟩ | ⟨_, _, e⟩ := txUnlock_cases l s slot <;> rw [e] <;> rfl
  | waitRead slot k =>
    simp only [txStep]
    obtain ⟨_, e⟩ | ⟨_, _, e⟩ | ⟨_, _, e⟩ := waitRead_cases l s slot k _ rfl <;> rw [e] <;> rfl
  | sendMap | fragMap | waitDelay => rfl

theorem TxPoint.beforeTail_of_quiet {q : TxPoint} (hq : q.quiet = true) : (Point.tx q).beforeTail = false := by
  cases q with
  | sendWrite | fragWrite | tail => cases hq
  | _ => rfl

/-- Between a descriptor write and its tail write the transmit tail is not bound. -/
theorem State.TailsOk.beforeTail (hrx : t.RxTail) {p : Point} (hq : t.eng.seq = .running l p) (hp : p.beforeTail = true) : t.TailsOk where
  rx := hrx
  tx _ hb := absurd ((hb l p hq).symm.trans hp) Bool.false_ne_true
  init l' k hq' := by
    cases hq.symm.trans hq'
    cases hp

theorem txStep_tailsOk (hok : s.TailsOk) {q : TxPoint} (hq : s.eng.seq = .running l (.tx q)) : (txStep l q s).TailsOk := by
  have hframe : s.TransmitFrame (txStep l q s) := txStep_frame q
  have hrx : (txStep l q s).RxTail := hframe.rxTail hok.rx
  cases hquiet : q.quiet with
  | true =>
    exact hok.of_same hq (TxPoint.beforeTail_of_quiet hquiet)
      (hframe.sameTails (txStep_txW hquiet) (txStep_quiet hquiet).tdt) (txStep_family l s (by rw [hq]; rfl) q) nofun
  | false =>
    cases q with
    | sendWrite da => exact .beforeTail hrx (p := .tx (.tail s.eng.txW)) rfl rfl
    | fragWrite f rest =>
      cases rest with
      | nil => exact .beforeTail hrx (p := .tx (.tail s.eng.txW)) rfl rfl
      | cons g rest => exact .beforeTail hrx (p := .tx (.fragWrite g rest)) rfl rfl
    | tail slot =>
      have htx : (txTail l slot s).TxTail := fun _ => BitVec.toNat_setWidth_of_le (by decide)
      exact .stays hrx htx (txStep_family l s (by rw [hq]; rfl) (.tail slot)) nofun
    | _ => cases hquiet

theorem reclaimNext_sameTails (w : Word) (k : Nat) : s.SameTails (reclaimNext l w k s) := by
  obtain ⟨_, e⟩ | ⟨_, _, _, e⟩ := reclaimNext_cases l s w k <;> rw [e] <;> exact ⟨rfl, rfl, rfl, rfl, rfl, rfl⟩

theorem reclaimStep_sameTails (q : ReclaimPoint) : s.SameTails (reclaimStep l q s) := by
  cases q with
  | head =>
    have hread : s.SameTails (s.regRead .tdh) := ⟨rfl, rfl, rfl, rfl, rfl, rfl⟩
    simp only [reclaimStep]
    obtain ⟨_, e⟩ | ⟨_, _, e⟩ | ⟨_, _, e⟩ := reclaimHead_cases l s <;> rw [e]
    · exact ⟨rfl, rfl, rfl, rfl, rfl, rfl⟩
    · exact hread.trans (reclaimNext_sameTails _ 0)
    · exact ⟨rfl, rfl, rfl, rfl, rfl, rfl⟩
  | read w k =>
    simp only [reclaimStep, reclaimRead]
    split <;> exact ⟨rfl, rfl, rfl, rfl, rfl, rfl⟩
  | clear w k d =>
    have hclear : s.SameTails (s.clearSlot k d) := ⟨rfl, rfl, rfl, rfl, rfl, rfl⟩
    exact hclear.trans (reclaimNext_sameTails w (k + 1))
  | _ => exact ⟨rfl, rfl, rfl, rfl, rfl, rfl⟩

/-! ### The steps of RX.POLL (42_receive.md R174, R176) -/

/-- The tail write of RX.POLL gives the slot at the cursor away and moves on; the other steps move neither. -/
theorem rxStep_tail (q : RxPoint) :
    ((rxStep l q s).nic.rdt = s.nic.rdt ∧ (rxStep l q s).eng.rxC = s.eng.rxC) ∨
    ((rxStep l q s).nic.rdt = s.eng.rxC.setWidth 32 ∧ (rxStep l q s).eng.rxC = adv s.eng.rxC s.eng.n) := by
  cases q with
  | read =>
    simp only [rxStep]
    obtain ⟨_, e⟩ | ⟨_, _, e⟩ | ⟨_, _, _, _, e⟩ | ⟨_, _, _, _, e⟩ := pollRead_cases l s _ _ rfl rfl <;> rw [e]
    · exact .inl ⟨rfl, rfl⟩
    · exact .inl ⟨rfl, rfl⟩
    · exact .inl ⟨rfl, rfl⟩
    · rw [countTrunc_eq]
      exact .inl ⟨rfl, rfl⟩
  | copy len n =>
    simp only [rxStep, pollCopy, countTrunc_eq]
    exact .inl ⟨rfl, rfl⟩
  | header len n => exact .inl ⟨rfl, rfl⟩
  | rearm report => exact .inl ⟨rfl, rfl⟩
  | tail report => cases report <;> exact .inr ⟨rfl, rfl⟩

/-- The slot before the next one is this one. -/
theorem ring_pred_succ {c n : Nat} (h : c < n) : ((c + 1) % n + n - 1) % n = c := by
  rw [Nat.add_sub_assoc (by omega), Nat.mod_add_mod, show c + 1 + (n - 1) = c + n by omega, Nat.add_mod_right, Nat.mod_eq_of_lt h]

theorem rxStep_tailsOk (hup : s.RingUp) (hok : s.TailsOk) {q : RxPoint} (hq : s.eng.seq = .running l (.rx q)) :
    (rxStep l q s).TailsOk := by
  have hframe := rxStep_frame l s q
  have hn : (rxStep l q s).eng.n = s.eng.n := congrArg (·.n) hframe.eng
  have hw : (rxStep l q s).eng.hwInit = s.eng.hwInit := congrArg (·.hwInit) hframe.eng
  have htxW : (rxStep l q s).eng.txW = s.eng.txW := congrArg (·.txW) hframe.eng
  have htdt : (rxStep l q s).nic.tdt = s.nic.tdt := congrArg (·.tdt) hframe.nic
  obtain ⟨hrdt, hrxC⟩ | ⟨hrdt, hrxC⟩ := rxStep_tail (l := l) (s := s) q
  · exact hok.of_same hq rfl ⟨hw, hn, hrxC, htxW, hrdt, htdt⟩ (rxStep_family l s q) nofun
  · refine .stays (fun _ => ?_) (fun hup' => ?_) (rxStep_family l s q) nofun
    · rw [hrdt, hrxC, hn, adv_toNat hup.rxC, ring_pred_succ hup.rxC]
      exact BitVec.toNat_setWidth_of_le (by decide)
    · rw [htdt, htxW]
      exact hok.txTail hq rfl (hw.symm.trans hup')

/-! ### The decode, and all families together -/

/-- No command's decode lands at the register writes of INIT. -/
theorem startInstr_ne_program (i : Instr) {l' : Latch} {k : Nat} :
    (startInstr l i s).eng.seq ≠ .running l' (.init (.program k)) := by
  have hctl : ∀ {t : State}, t.eng.seq.StaysIn .control → t.eng.seq ≠ .running l' (.init (.program k)) :=
    fun h hq => nomatch h.family_eq hq
  cases i with
  | init n =>
    simp only [startInstr]
    obtain ⟨_, e⟩ | ⟨_, e⟩ := initStart_cases l s <;> rw [e] <;> exact nofun
  | txSend block vle =>
    simp only [startInstr]
    obtain ⟨_, e⟩ | ⟨_, _, e⟩ | ⟨_, _, e⟩ := sendStart_cases l s <;> rw [e] <;> exact nofun
  | txSendf block vle frags =>
    simp only [startInstr]
    obtain ⟨_, e⟩ | ⟨_, e⟩ := sendfStart_cases l s <;> rw [e] <;> exact nofun
  | txReclaim max =>
    simp only [startInstr, reclaimStart]
    split_ifs <;> exact nofun
  | rxPoll =>
    simp only [startInstr, pollStart]
    split <;> exact nofun
  | linkWait cd =>
    simp only [startInstr, linkStart]
    split_ifs
    · exact nofun
    · exact fun hq => nomatch (windowOver_family l (s.setLink .negotiating)).family_eq hq
    · exact nofun
  | filterSet mcl mask =>
    simp only [startInstr, filterStart]
    split_ifs
    · exact nofun
    · exact nofun
    · exact hctl (filterList_family l s false)
  | intMask => exact nofun
  | rxEnable => exact hctl (startQueue_family l s .rx .command)
  | rxDisable => exact nofun
  | txqEnable => exact hctl (startQueue_family l s .tx .command)
  | txqDisable => exact nofun

theorem decodeStep_ne_program {l' : Latch} {k : Nat} : (decodeStep l s).eng.seq ≠ .running l' (.init (.program k)) := by
  obtain ⟨_, e⟩ | ⟨_, _, e⟩ | ⟨_, i, _, ⟨_, _, e⟩ | ⟨_, e⟩⟩ := decodeStep_cases l s <;> rw [e]
  · exact nofun
  · exact nofun
  · exact nofun
  · exact startInstr_ne_program i

theorem decodeStep_sameTails : s.SameTails (decodeStep l s) := by
  obtain h | h := decodeStep_frame l s
  · exact h.sameTails
  · exact h.2.sameTails

theorem decodeStep_tailsOk (hok : s.TailsOk) (hq : s.eng.seq = .running l .decode) : (decodeStep l s).TailsOk where
  rx := State.RxTail.of_same hok.rx decodeStep_sameTails
  tx hw _ := (hok.txTail hq rfl).of_same decodeStep_sameTails hw
  init _ _ hq' := absurd hq' decodeStep_ne_program

theorem engineStep_tailsOk (hring : s.RingOk) (hok : s.TailsOk) {p : Point} (hq : s.eng.seq = .running l p) :
    (engineStep l p s).TailsOk := by
  have hfam : s.eng.seq.family = some p.family := by rw [hq]; rfl
  cases p with
  | decode => exact decodeStep_tailsOk hok hq
  | init q => exact initStep_tailsOk hring hok hq
  | tx q => exact txStep_tailsOk hok hq
  | reclaim q => exact hok.of_same hq rfl (reclaimStep_sameTails q) (reclaimStep_family l s q) nofun
  | rx q => exact rxStep_tailsOk (hring.up (hring.point l _ hq)) hok hq
  | link q => exact hok.of_same hq rfl (linkStep_frame l s q).sameTails (linkStep_family l s q) nofun
  | filter q => exact hok.of_same hq rfl (filterStep_frame l s q).sameTails (filterStep_family l s hfam q) nofun
  | mask q => exact hok.of_same hq rfl (maskStep_frame l s q).sameTails (maskStep_family l s q) nofun
  | queue q => exact hok.of_same hq rfl (queueStep_frame l s q).sameTails (queueStep_family l s q) nofun

/-! ### The inputs -/

/-- A move that leaves the position. -/
theorem State.TailsOk.of_same_seq (h : s.TailsOk) (k : s.SameTails t) (hseq : t.eng.seq = s.eng.seq) : t.TailsOk where
  rx := State.RxTail.of_same h.rx k
  tx hw hb := by
    rw [k.tdt, k.txW]
    exact h.tx (k.hwInit.symm.trans hw) fun l p hq => hb l p (hseq.trans hq)
  init l j hq hj := k.tdt.trans (h.init l j (hseq.symm.trans hq) hj)

theorem startCmd_tailsOk (h : s.TailsOk) (hq : s.eng.seq = .idle) (w : Word) : (s.startCmd w).TailsOk where
  rx := h.rx
  tx hw _ := h.tx hw fun _ _ hq' => nomatch hq.symm.trans hq'
  init _ _ hq' := by cases hq'

/-- A reset of the block, or of the NIC before INIT, leaves the tails unbound (70_reset_and_hazards.md R257, R261). -/
theorem tailsOk_of_idle (hw : t.eng.hwInit = false) (hq : t.eng.seq = .idle) : t.TailsOk :=
  .of_down hw fun _ _ hq' => nomatch hq.symm.trans hq'

theorem outside_tailsOk (h : s.TailsOk) (i : Input) : (s.outside i).TailsOk := by
  by_cases hi : i = .reset
  · subst hi
    exact tailsOk_of_idle rfl rfl
  · obtain ⟨htdt, hrdt, _⟩ | ⟨d, hw, hq, _, e⟩ := outside_nic s i
    · obtain e | ⟨w, hq, e⟩ | e := outside_eng s hi
      · exact h.of_same_seq ⟨by rw [e], by rw [e], by rw [e], by rw [e], hrdt, htdt⟩ (by rw [e])
      · rw [e]
        exact startCmd_tailsOk h hq w
      · rw [e]
        exact h.of_same_seq ⟨rfl, rfl, rfl, rfl, rfl, rfl⟩ rfl
    · rw [e]
      exact tailsOk_of_idle hw hq

end

/-- Settles O12: beside the canonical form and the ring-index invariants, which say that the cursors are below the ring size and that the
rings are down while INIT runs. -/
theorem tailsFollowTheCursors : Obligations.TailsFollowTheCursors := by
  intro s t hc hring h hstep
  refine (step_keeps (P := fun u => (u.Canonical ∧ u.RingOk) ∧ u.TailsOk) (fun w u hq hu => ?_) (fun u hu => ?_)
    (fun l p u hq hu => ⟨⟨engineStep_canonical l hu.1.1 p, engineStep_ringOk hu.1.1 hu.1.2 hq⟩, engineStep_tailsOk hu.1.2 hu.2 hq⟩)
    (fun i u hu => ⟨⟨outside_canonical hu.1.1 i, outside_ringOk hu.1.2 i⟩, outside_tailsOk hu.2 i⟩)
    (fun is u hu => ?_) s t ⟨⟨hc, hring⟩, h⟩ hstep).2
  · exact ⟨⟨(canonical_startCmd u w).mpr hu.1.1, startCmd_ringOk hu.1.2 w⟩, startCmd_tailsOk hu.2 hq w⟩
  · exact ⟨⟨(canonical_overrun u).mpr hu.1.1, overrun_ringOk hu.1.2⟩,
      hu.2.of_same_seq ⟨rfl, rfl, rfl, rfl, rfl, rfl⟩ rfl⟩
  · exact ⟨⟨(canonical_setInputs u is).mpr hu.1.1, setInputs_ringOk hu.1.2 is⟩,
      hu.2.of_same_seq ⟨rfl, rfl, rfl, rfl, rfl, rfl⟩ rfl⟩

end Sys2Proof.Machine
end

/-! ## Reset, the step of an idle machine, and the host's accesses -/

section

namespace Sys2Proof.Machine

/-! ### The invariants at reset (10_state.md R53, R54; 70_reset_and_hazards.md R259) -/

theorem canonical_resetWith (c : Config) : (State.resetWith c).Canonical := ⟨rfl, rfl, rfl, rfl⟩

theorem lockOk_resetWith (c : Config) : (State.resetWith c).LockOk := lockOk_iff.mpr ⟨rfl, nofun⟩

theorem filterOk_resetWith (c : Config) : (State.resetWith c).FilterOk :=
  filterOk_iff.mpr ⟨⟨.inl rfl, Nat.zero_le _, Nat.zero_le _⟩, nofun⟩

theorem faultOk_resetWith (c : Config) : (State.resetWith c).FaultOk := ⟨nofun, fun h => absurd rfl h⟩

/-- Settles O16: no command runs at reset and the rings are down, so what is left are the values of reset. -/
theorem invariantsHoldAtReset : Obligations.InvariantsHoldAtReset :=
  ⟨fun c => ⟨canonical_resetWith c, lockOk_resetWith c, ringOk_of_reset rfl, tailsOk_of_idle rfl rfl, filterOk_resetWith c,
    faultOk_resetWith c⟩, rfl, by decide⟩

/-! ### The step of an idle machine (30_encoding.md R95) -/

theorem step_of_idle {s : State} {i : Input} {is : List Input} (hc : configWf s.cfg = true) (hq : s.eng.seq = .idle)
    (hi : s.inputs = i :: is) : step s = idleStep i (s.setInputs is) := by
  simp only [step, hc, hq, hi, if_true]

theorem idleStep_command {s : State} {w : Word} {i : Instr} (h : decode w = .command i) : idleStep (.host (.write 0 w)) s = exec i s := by
  simp only [idleStep, Input.cmdWord?, h]

theorem idleStep_reject {s : State} {w : Word} {why : DecodeError} (h : decode w = .reject why) :
    idleStep (.host (.write 0 w)) s = issueWord w s := by
  simp only [idleStep, Input.cmdWord?, h]

theorem idleStep_other {s : State} {i : Input} (h : ∀ w, i ≠ .host (.write 0 w)) : idleStep i s = .next (s.outside i) := by
  unfold idleStep
  split
  · rfl
  next w hw =>
    unfold Input.cmdWord? at hw
    split at hw
    · exact absurd rfl (h _)
    · cases hw

theorem decode_of_decodeTableWord {nbits w : Nat} {i : Instr} (h : decodeTableWord nbits w = some i) :
    decode (tableWord nbits w) = .command i := by
  unfold decodeTableWord at h
  cases hd : decode (tableWord nbits w) with
  | command j =>
    rw [hd] at h
    cases h
    rfl
  | reject why =>
    rw [hd] at h
    cases h

/-- Settles O6: the word at the head of the inputs decides. -/
theorem stepRunsTheDecodedCommand : Obligations.StepRunsTheDecodedCommand := by
  refine ⟨fun s w is i hc hq hi hd => ?_, fun s w is why hc hq hi hd => ?_, fun s i is hc hq hi hne => ?_, fun s hc hq => ?_,
    fun s nbits w i hc hd => ?_⟩
  · rw [step_of_idle hc hq hi, idleStep_command hd]
  · rw [step_of_idle hc hq hi, idleStep_reject hd]
  · rw [step_of_idle hc hq hi, idleStep_other hne]
  · obtain ⟨hbad, _⟩ | ⟨_, _, e⟩ | ⟨_, hidle, _⟩ | ⟨_, hidle, _⟩ := step_cases s
    · exact absurd (hbad.symm.trans hc) Bool.false_ne_true
    · exact e
    · exact absurd hidle hq
    · exact absurd hidle hq
  · exact (step_of_idle (s := s.withFetchWord nbits w) hc rfl rfl).trans (idleStep_command (decode_of_decodeTableWord hd))

/-! ### The host's register accesses (10_state.md R28 to R35, 60_exceptions.md R233) -/

/-- The status word, field by field (R30). -/
theorem statusWord_fields (s : State) :
    s.statusWord.extractLsb' 0 4 = s.regs.code.bits ∧ s.statusWord.getLsbD 4 = s.eng.seq.busy ∧
    s.statusWord.getLsbD 5 = s.eng.fault ∧ s.statusWord.getLsbD 6 = s.eng.ovr ∧ s.statusWord.getLsbD 7 = false ∧
    s.statusWord.extractLsb' 8 3 = s.eng.link.bits ∧ s.statusWord.getLsbD 11 = s.eng.hwInit ∧
    s.statusWord.getLsbD 12 = s.eng.rxStarted ∧ s.statusWord.getLsbD 13 = s.eng.txqEnabled ∧
    s.statusWord.extractLsb' 14 2 = 0 ∧ s.statusWord.extractLsb' 16 4 = s.eng.faultCause.bits ∧
    s.statusWord.extractLsb' 20 12 = 0 := by
  unfold State.statusWord
  simp (disch := decide) only [BitVec.extractLsb'_append_eq_of_add_le, BitVec.extractLsb'_append_eq_of_le, BitVec.getLsbD_append,
    BitVec.extractLsb'_eq_self, BitVec.getLsbD_ofBool, BitVec.getLsbD_zero, BitVec.ofNat_eq_ofNat, Nat.reduceSub, Nat.reduceLT,
    reduceIte, decide_true, Bool.true_and, and_self]

/-- The capability word, field by field (R35). -/
theorem capsWord_fields (c : Config) :
    (capsWord c).getLsbD 0 = c.queueHandshake ∧ (capsWord c).getLsbD 1 = c.rxTestEop ∧ (capsWord c).getLsbD 2 = c.phyDownshift ∧
    (capsWord c).extractLsb' 3 2 = formatBits c.descFormat ∧ (capsWord c).extractLsb' 5 3 = 0 ∧
    (capsWord c).extractLsb' 8 8 = BitVec.ofNat 8 c.maxFrags ∧ (capsWord c).extractLsb' 16 8 = BitVec.ofNat 8 c.maxMcast ∧
    (capsWord c).extractLsb' 24 8 = 0 := by
  unfold capsWord
  simp (disch := decide) only [BitVec.extractLsb'_append_eq_of_add_le, BitVec.extractLsb'_append_eq_of_le, BitVec.getLsbD_append,
    BitVec.extractLsb'_eq_self, BitVec.getLsbD_ofBool, BitVec.getLsbD_zero, BitVec.ofNat_eq_ofNat, Nat.reduceSub, Nat.reduceLT,
    reduceIte, decide_true, Bool.true_and, and_self]

/-- The filter word, field by field (R34). -/
theorem filterWord_fields (s : State) :
    s.filterWord.extractLsb' 0 5 = s.eng.filterMask ∧ s.filterWord.extractLsb' 5 3 = 0 ∧ s.filterWord.extractLsb' 8 8 = s.eng.mcCount ∧
    s.filterWord.extractLsb' 16 16 = 0 := by
  unfold State.filterWord
  simp (disch := decide) only [BitVec.extractLsb'_append_eq_of_add_le, BitVec.extractLsb'_append_eq_of_le,
    BitVec.extractLsb'_eq_self, BitVec.ofNat_eq_ofNat, Nat.reduceSub, and_self]

theorem busy_eq_decide (q : Seq) : q.busy = decide (q ≠ .idle) := by
  cases q <;> rfl

/-- Two half words with the upper one first are the word they were cut from. -/
theorem halves_append (x : BitVec 64) : x.extractLsb' 32 32 ++ x.extractLsb' 0 32 = x := BitVec.extractLsb'_append_extractLsb'

theorem zero_append_half (x : Half) : (0#16 ++ x : Word) = x.setWidth 32 := by
  apply BitVec.eq_of_getLsbD_eq
  intro i hi
  simp only [BitVec.getLsbD_append, BitVec.getLsbD_zero, BitVec.getLsbD_setWidth, hi, decide_true, Bool.true_and]
  split
  · rfl
  next h => exact (BitVec.getLsbD_of_ge x i (Nat.le_of_not_lt h)).symm

/-- The address registers hold the station address (R35). -/
theorem mac_append (m : Mac) : ((0#16 ++ m.extractLsb' 32 16 : Word) ++ m.extractLsb' 0 32).extractLsb' 0 48 = m := by
  apply BitVec.eq_of_getLsbD_eq
  intro i hi
  by_cases hlow : i < 32
  · simp only [BitVec.getLsbD_extractLsb', BitVec.getLsbD_append, Nat.zero_add, hi, hlow, decide_true, Bool.true_and, if_true]
  · have hhigh : i - 32 < 16 := by omega
    simp only [BitVec.getLsbD_extractLsb', BitVec.getLsbD_append, Nat.zero_add, hi, hlow, hhigh, decide_true, Bool.true_and,
      if_true, if_false, Nat.add_sub_of_le (Nat.le_of_not_lt hlow)]

/-- Beyond the last register, and between two registers, the host reads 0 (R28). -/
theorem hostRead_reserved (s : State) {off : Nat} (h : 0x58 < off ∨ off % 4 ≠ 0) : s.hostRead off = 0 := by
  unfold State.hostRead
  split
  case h_24 => rfl
  all_goals omega

/-- Settles O18: the three words with fields are cut where they were put together. -/
theorem hostReads : Obligations.HostReads := by
  refine ⟨fun s => ?_, by decide, by decide, by decide, by decide⟩
  obtain ⟨hcode, hbusy, hfault, hovr, h7, hlink, hinit, hrx, htxq, h14, hcause, h20⟩ := statusWord_fields s
  obtain ⟨hmask, hf5, hcount, hf16⟩ := filterWord_fields s
  obtain ⟨hq, heop, hphy, hfmt, hc5, hfrags, hmcast, hc24⟩ := capsWord_fields s.cfg
  exact ⟨rfl, hcode, hbusy.trans (busy_eq_decide _), hfault, hovr, h7, hlink, hinit, hrx, htxq, h14, hcause, h20,
    halves_append _, rfl, rfl, halves_append _, halves_append _, rfl, rfl, rfl,
    BitVec.extractLsb'_append_eq_right, BitVec.extractLsb'_append_eq_left, zero_append_half _, hmask, hf5, hcount, hf16,
    rfl, rfl, zero_append_half _, rfl, hq, heop, hphy, hfmt, hc5, hfrags, hmcast, hc24, mac_append _,
    BitVec.extractLsb'_append_eq_left, fun _ => hostRead_reserved s⟩

/-- A write of any other offset is ignored (R31). -/
theorem hostWrite_other (s : State) (v : Word) {off : Nat} (hcmd : off ≠ 0x00) (hlo : off ≠ 0x08) (hhi : off ≠ 0x0C)
    (h1 : off ≠ 0x10) (h2 : off ≠ 0x14) : s.hostWrite off v = s := by
  unfold State.hostWrite
  split
  case h_6 => rfl
  all_goals contradiction

/-- Settles O19: each half of ARG0 is written beside the other. -/
theorem hostWrites : Obligations.HostWrites := fun s v =>
  ⟨BitVec.extractLsb'_append_eq_right, BitVec.extractLsb'_append_eq_left,
    BitVec.extractLsb'_append_eq_left, BitVec.extractLsb'_append_eq_right, rfl, rfl, rfl, rfl, fun _ => hostWrite_other s v⟩

/-- Settles O21: the register write and the command meet the same running command. -/
theorem commandOverrun : Obligations.CommandOverrun := by
  intro s w hq
  refine ⟨?_, fun hc i => ?_⟩
  · simp only [State.hostWrite, State.cmdWrite]
    split
    next hidle => exact absurd hidle hq
    · rfl
  · rw [exec_eq]
    obtain ⟨hbad, _⟩ | ⟨_, hidle, _⟩ | ⟨_, _, e⟩ := issueWord_cases (encode i) s
    · exact absurd (hbad.symm.trans hc) Bool.false_ne_true
    · exact absurd hidle hq
    · exact e

/-! ### The host's stores (20_memory.md R66, R92) -/

/-- A legal store passes no byte of a range it is kept off. -/
theorem not_inRange_of_not_meets {a b : Addr} {n lo m : Nat} (hfit : a.toNat + n ≤ 2 ^ 64) (hb : lo ≤ b.toNat ∧ b.toNat < lo + m)
    (h : rangesMeet a.toNat n lo m = false) : ¬ inRange b a n := by
  intro hin
  have hab : a.toNat ≤ b.toNat ∧ b.toNat < a.toNat + n := by
    simp only [inRange, BitVec.toNat_sub] at hin
    have := a.isLt
    have := b.isLt
    omega
  exact absurd (h.symm.trans (rangesMeet_of_mem hab hb)) Bool.false_ne_true

/-- The bytes the host is kept off: the ring regions, the bound transmit buffers and the bound receive buffers (R66, R92). -/
def State.Guarded (s : State) (b : Addr) : Prop :=
  (s.cfg.txRingBase.toNat ≤ b.toNat ∧ b.toNat < s.cfg.txRingBase.toNat + 16 * s.cfg.nMax) ∨
  (s.cfg.rxRingBase.toNat ≤ b.toNat ∧ b.toNat < s.cfg.rxRingBase.toNat + 16 * s.cfg.nMax) ∨
  (∃ e ∈ s.eng.txTab, e.2.va.toNat ≤ b.toNat ∧ b.toNat < e.2.va.toNat + e.2.len.toNat) ∨
  (∃ e ∈ s.eng.rxTab, e.2.va.toNat ≤ b.toNat ∧ b.toNat < e.2.va.toNat + s.eng.b.toNat)

theorem not_inRange_of_hostMayStore {s : State} {a b : Addr} {n : Nat} (h : s.hostMayStore a.toNat n = true) (hb : s.Guarded b) :
    ¬ inRange b a n := by
  simp only [State.hostMayStore, overlapsRings, anyMeets, ringBytes, Bool.and_eq_true, decide_eq_true_eq, Bool.not_eq_true',
    Bool.or_eq_false_iff, List.any_eq_false, Bool.not_eq_true] at h
  obtain ⟨⟨hfit, htx, hrx⟩, howned⟩ := h
  obtain hb | hb | ⟨e, he, hb⟩ | ⟨e, he, hb⟩ := hb
  · exact not_inRange_of_not_meets hfit hb htx
  · exact not_inRange_of_not_meets hfit hb hrx
  · refine not_inRange_of_not_meets hfit hb (howned (e.2.va.toNat, e.2.len.toNat) ?_)
    exact List.mem_append_left _ (List.mem_append_left _ (List.mem_map_of_mem he))
  · refine not_inRange_of_not_meets hfit hb (howned (e.2.va.toNat, s.eng.b.toNat) ?_)
    exact List.mem_append_left _ (List.mem_append_right _ (List.mem_map_of_mem he))

/-- A host step leaves the bytes the host is kept off: all but a store leave memory. -/
theorem hostStep_guarded {s : State} {b : Addr} (hb : s.Guarded b) (h : HostStep) :
    readByte (s.hostStep h).mem b = readByte s.mem b := by
  cases h with
  | write off v =>
    simp only [State.hostStep, State.hostWrite]
    split
    · unfold State.cmdWrite
      split <;> rfl
    all_goals rfl
  | store a bytes =>
    simp only [State.hostStep]
    split
    next hmay => exact readByte_writeBytes_out bytes s.mem a b (not_inRange_of_hostMayStore hmay hb)
    · rfl
  | lock =>
    simp only [State.hostStep]
    split <;> rfl
  | stopNic =>
    simp only [State.hostStep]
    obtain e | ⟨_, _, e⟩ := stopNic_cases s <;> rw [e]
    rfl
  | resetNic d =>
    simp only [State.hostStep]
    obtain e | ⟨_, _, _, e⟩ := resetNic_cases s d <;> rw [e]
    rfl
  | read | load | unlock => rfl

/-- Of the host's steps only a register write changes the block. -/
theorem hostStep_block {s : State} {h : HostStep} (hw : ∀ off v, h ≠ .write off v) :
    (s.hostStep h).eng = s.eng ∧ (s.hostStep h).regs = s.regs := by
  cases h with
  | write off v => exact absurd rfl (hw off v)
  | store a bytes =>
    simp only [State.hostStep]
    split <;> exact ⟨rfl, rfl⟩
  | lock =>
    simp only [State.hostStep]
    split <;> exact ⟨rfl, rfl⟩
  | stopNic =>
    simp only [State.hostStep]
    obtain e | ⟨_, _, e⟩ := stopNic_cases s <;> rw [e] <;> exact ⟨rfl, rfl⟩
  | resetNic d =>
    simp only [State.hostStep]
    obtain e | ⟨_, _, _, e⟩ := resetNic_cases s d <;> rw [e] <;> exact ⟨rfl, rfl⟩
  | read | load | unlock => exact ⟨rfl, rfl⟩

/-- Settles O57: the check of a store keeps it off these bytes, and no other host step touches memory. -/
theorem hostKeepsOffTheBlocksMemory : Obligations.HostKeepsOffTheBlocksMemory := by
  rintro s _ h b rfl hb
  exact ⟨hostStep_guarded hb h, hostStep_block⟩

end Sys2Proof.Machine
end

/-! ## The wait for the lock (20_memory.md R89; 60_exceptions.md R252) -/

section

namespace Sys2Proof.Machine

/-- What Acquire() does when it is granted (R25). -/
structure State.Acquires (s t : State) : Prop where
  held : t.eng.lockHeld = true
  ports : t.ports = .acquire :: s.ports
  nic : t.nic = s.nic
  mem : t.mem = s.mem
  regs : t.regs = s.regs

theorem engineStep_acquires {l : Latch} {p : Point} {s : State} (hp : p.isAcquire = true) (hl : s.lockOther = false) :
    s.Acquires (engineStep l p s) := by
  have htx (q : Point) : s.Acquires (acquireOrWait l q s) := by
    obtain ⟨h, _⟩ | ⟨_, e⟩ := acquireOrWait_cases l s q
    · exact absurd (hl.symm.trans h) Bool.false_ne_true
    · rw [e]
      exact ⟨rfl, rfl, rfl, rfl, rfl⟩
  unfold Point.isAcquire at hp
  split at hp
  · exact htx _
  · exact htx _
  · simp only [engineStep, filterStep]
    rw [filterAcquire_takes l s _ _ hl]
    exact ⟨rfl, rfl, rfl, rfl, rfl⟩
  · cases hp

/-- The engine's turn on a settled machine changes nothing. -/
theorem engineTurn_settled {s : State} (h : s.settled = true) : s.engineTurn = s := by
  cases hq : s.eng.seq with
  | idle => exact engineTurn_idle hq
  | running l p =>
    simp only [State.settled, hq, Bool.and_eq_true] at h
    exact engineTurn_blocked h.1

/-- With no input to come a run is the engine's own turns, waits among them. -/
theorem run_eq_iterate : ∀ (n : Nat) (s : State), s.inputs = [] → State.run n s = State.engineTurn^[n] s
  | 0, _, _ => rfl
  | n + 1, s, hi => by
    have ih := run_eq_iterate n s.engineTurn ((engineTurn_outer s).inputs.trans hi)
    rw [Function.iterate_succ_apply, ← ih]
    cases h : s.settled with
    | true => rw [engineTurn_settled h, run_settled h, run_settled h]
    | false => rw [run_succ h, turn_quiet hi]

/-- With no input to come a machine that has settled after `k` turns of the engine stays there. -/
theorem drive_of_settled {s t : State} (k : Nat) (hi : s.inputs = []) (hk : k ≤ stepBound s.cfg)
    (hr : State.engineTurn^[k] s = t) (ht : t.settled = true) : s.drive = t := by
  have hrun : State.run k s = t := (run_eq_iterate k s hi).trans hr
  unfold State.drive
  rw [run_enough (hrun ▸ ht) (by omega), hrun]

/-- A step with no input changes nothing while the engine waits for the lock. -/
theorem step_of_settled {t : State} (hc : configWf t.cfg = true) (ht : t.settled = true) (hi : t.inputs = []) : step t = .next t := by
  obtain ⟨hbad, _⟩ | ⟨_, _, e⟩ | ⟨_, _, _, e⟩ | ⟨_, _, i, is, his, _⟩ := step_cases t
  · exact absurd (hbad.symm.trans hc) Bool.false_ne_true
  · rw [e, State.drive, run_settled ht]
  · exact e
  · cases hi.symm.trans his

/-- `s` with word `w` of a TX.SEND started, waiting for the lock after its map (41_transmit.md R145, R150). -/
def State.sendWaiting (s : State) (w : Word) : State :=
  ((s.startCmd w).mapTx s.regs.arg0 (lowHalf s.regs.arg1).toNat).goto (s.latch w) (.tx (.sendAcquire (dev s.regs.arg0 (s.answer 0))))

theorem sendWaiting_settled {s : State} (w : Word) (hi : s.inputs = []) (hl : s.lockOther = true) : (s.sendWaiting w).settled = true := by
  have hblocked : (s.sendWaiting w).blocked = true := hl
  have hinputs : (s.sendWaiting w).inputs.isEmpty = true := congrArg List.isEmpty hi
  exact Bool.and_eq_true_iff.mpr ⟨hblocked, hinputs⟩

/-- TX.SEND with legal operands and a free slot maps its buffer with the step after the decode. -/
theorem sendWaiting_eq_iterate {s : State} {block vle : Bool} (hf : s.eng.fault = false) (hw : s.eng.hwInit = true)
    (hlegal : s.SendLegal vle) (hfree : s.slotFree s.eng.txW.toNat = true) :
    State.engineTurn^[2] (s.startCmd (encode (.txSend block vle))) = s.sendWaiting (encode (.txSend block vle)) := by
  have hdecode : decode (encode (.txSend block vle)) = .command (.txSend block vle) := decodeOfEncode _ rfl
  generalize hword : encode (.txSend block vle) = w at hdecode
  have hrefused : sendRefused (s.latch w) (s.startCmd w) = false := hword ▸ (sendRefused_eq_false_iff block vle).mpr hlegal
  have hstart : sendStart (s.latch w) (s.startCmd w) = (s.startCmd w).goto (s.latch w) (.tx .sendMap) :=
    (if_neg (ne_true_of_eq_false hrefused)).trans (if_pos hfree)
  have hturn : (s.startCmd w).engineTurn = (s.startCmd w).goto (s.latch w) (.tx .sendMap) :=
    (decodeStep_command (s := s.startCmd w) (l := s.latch w) hf hdecode fun _ => hw).trans hstart
  have hmap : ((s.startCmd w).goto (s.latch w) (.tx .sendMap)).engineTurn =
      ((s.startCmd w).mapTx s.regs.arg0 (lowHalf s.regs.arg1).toNat).goto (s.latch w)
        (.tx (.sendAcquire (dev s.regs.arg0 (s.startCmd w).mapAnswer))) := rfl
  rw [Function.iterate_succ_apply, Function.iterate_one, hturn, hmap, mapAnswer_startCmd]
  rfl

/-- Settles O31: the three positions are those of the two transmit commands and of a locked change; a TX.SEND that finds the lock held has
settled after its decode and its map. -/
theorem acquireWaitsForTheLock : Obligations.AcquireWaitsForTheLock := by
  refine ⟨fun l p s hp => ⟨engineStep_waits l s hp, fun hl => ?_⟩, fun s block vle hc hq hf hi hl hw hlegal hfree => ?_⟩
  · obtain ⟨hheld, hports, hnic, hmem, hregs⟩ := engineStep_acquires (l := l) hp hl
    exact ⟨hheld, hports, hnic, hmem, hregs⟩
  · have hsettled := sendWaiting_settled (encode (.txSend block vle)) hi hl
    refine ⟨s.sendWaiting (encode (.txSend block vle)), dev s.regs.arg0 (s.answer 0), ?_, rfl, ?_, rfl, rfl,
      step_of_settled hc hsettled hi⟩
    · rw [exec_eq]
      obtain ⟨hbad, _⟩ | ⟨_, _, e⟩ | ⟨_, hrun, _⟩ := issueWord_cases (encode (.txSend block vle)) s
      · exact absurd (hbad.symm.trans hc) Bool.false_ne_true
      · have hturns := sendWaiting_eq_iterate (block := block) hf hw hlegal hfree
        rw [e, drive_of_settled (s := s.startCmd (encode (.txSend block vle))) 2 hi (le_stepBound (by decide)) hturns hsettled]
      · exact absurd hq hrun
    · rw [← mapAnswer_startCmd s (encode (.txSend block vle))]
      rfl

end Sys2Proof.Machine
end
